-- ==== Sys2Proof/Word.lean ====
section
/-! DEFINITION. The plain types of the hardware's data: a byte, and the fixed-length byte sequences of the protocol. -/

namespace Sys2Proof

/-- A Byte, an unsigned integer 0 to 255 (spec/00_scope.md R9). -/
abbrev Byte := BitVec 8

/-- The nine bytes of a frame, offset 0 first on the wire (spec/30_encoding.md R70, R71). -/
abbrev Frame := Vector Byte 9

/-- The eight bytes the checksum covers; a vector, so that another length cannot be written
(spec/40_checksum.md R103). -/
abbrev Payload := Vector Byte 8

/-- The five argument bytes of a command frame (spec/00_scope.md R8, `NARGS`; spec/90_conflicts.md C1). -/
abbrev Args := Vector Byte 5

end Sys2Proof
end

