-- ==== Sys2Proof/Config.lean ====
section
/-! DEFINITION. What an implementation fixes: the parameters of spec/00_scope.md R8, and the free values of the model. -/

namespace Sys2Proof

/-- Constant at offset 0 of a built frame (R8, `START_MARKER`). -/
def Config.startMarker : Byte := 0xFF

/-- Constant at offset 1 of a built frame (R8, `DEVICE_ID`). -/
def Config.deviceId : Byte := 0x01

/-- Argument byte 0 of SetAutoCalibration when enabled (R8, `AUTOCAL_ON`). -/
def Config.autoCalOn : Byte := 0xA0

/-- Argument byte 0 of SetAutoCalibration when disabled (R8, `AUTOCAL_OFF`). -/
def Config.autoCalOff : Byte := 0x00

/-- The session's fixed timeout budget in timer ticks (R8, `TIMEOUT_TICKS`). -/
def Config.timeoutTicks : BitVec 16 := 1000

/-- FREE VALUE (log 1): the input word of clock cycle `n` when the script of State has run out. All non-determinism
of a run is in the sequence of input words (spec/00_scope.md R7), and nothing constrains it
(spec/10_state.md R34, spec/92_eei_decisions.md D22). -/
opaque Config.freeInput : Nat → BitVec 28

/-- FREE VALUE: the wall-clock length of one tick, in a unit of the integrator's (R8, `TICK_PERIOD`: OPEN, used by no
rule; log 19). -/
opaque Config.tickPeriod : Nat

/-- The line settings of the UART below whole bytes: baud rate, framing, bit order (spec/00_scope.md R8, R5(c)). -/
structure UartLineSettings where
  baudRate   : Nat
  startBits  : Nat
  parityBits : Nat
  stopBits   : Nat
  lsbFirst   : Bool
  deriving DecidableEq, Repr, Inhabited

/-- FREE VALUE: the UART line settings of the integrator (R8, spec/92_eei_decisions.md D19: OPEN, used by no rule;
log 19). -/
opaque Config.uartLineSettings : UartLineSettings

/-- The parameters R8 marks OPEN and "an argument of the model": the five command codes and the Range enumeration.
They are a field of State that no step changes, so that every statement over all states holds for all of them (log 4). -/
structure Params where
  codeReadConcentration  : Byte
  codeCalibrateZeroPoint : Byte
  codeCalibrateSpanPoint : Byte
  codeSetAutoCalibration : Byte
  codeSetDetectionRange  : Byte
  /-- The members of the Range enumeration, in ppm (spec/30_encoding.md R78). -/
  rangeSet               : List Nat
  deriving DecidableEq, Repr

/-- The defaults of spec/30_encoding.md R77, PRESUMED (the spec marks them as general knowledge,
spec/93_implementation_defined.md G1), and the document's examples of Range members (R78), DESIGN CHOICE. Log 4. -/
def Params.default : Params where
  codeReadConcentration  := 0x86
  codeCalibrateZeroPoint := 0x87
  codeCalibrateSpanPoint := 0x88
  codeSetAutoCalibration := 0x79
  codeSetDetectionRange  := 0x99
  rangeSet               := [1000, 2000, 3000, 5000, 10000]

end Sys2Proof
end

