-- ==== Sys2Proof/Syntax.lean ====
section
/-! DEFINITION. The instructions, one constructor per row of spec/opcode_table.json, the lines of a script, the ports of one
clock cycle, and the closed enumerations of the protocol. -/

namespace Sys2Proof

/-- The Command enumeration, closed (spec/30_encoding.md R77). -/
inductive Command where
  | readConcentration
  | calibrateZeroPoint
  | calibrateSpanPoint
  | setAutoCalibration
  | setDetectionRange
  deriving DecidableEq, Repr

/-- A member of the Range enumeration, a full-scale value in ppm: representable, in no frame and in no operation
(spec/30_encoding.md R78). Which values are members is the parameter `rangeSet`. -/
structure Range where
  ppm : Nat
  deriving DecidableEq, Repr

/-- The error taxonomy, complete (spec/60_exceptions.md R180). `invalidArgument` is kept and never produced (R185);
there is no `ReadFailed` (R186). -/
inductive ErrorKind where
  | writeFailed
  | timedOut
  | integrityFailure
  | invalidArgument
  deriving DecidableEq, Repr

/-- The input ports of one clock cycle (spec/10_state.md R30), as packed into an IN word (spec/30_encoding.md R73). -/
structure InPorts where
  /-- `rst` -/
  rst  : Bool
  /-- `cmd_arm` -/
  arm  : Bool
  /-- `cmd_dur` -/
  dur  : BitVec 16
  /-- `rx_valid` -/
  rxv  : Bool
  /-- `rx_data` -/
  rxd  : Byte
  /-- `tick` -/
  tick : Bool
  deriving DecidableEq, Repr

/-- What the agents other than the host drive in one clock cycle: the receive and the tick channel
(spec/00_scope.md R6, spec/30_encoding.md R73). -/
structure EnvCycle where
  rx   : Option Byte
  tick : Bool
  deriving DecidableEq, Repr

/-- A cycle in which the other agents drive nothing: the cycle a script gives a write (spec/30_encoding.md R90). -/
def EnvCycle.quiet : EnvCycle := ⟨none, false⟩

/-- One write of a byte, as the transport and the other agents choose it (spec/43_sensor_session.md R161; log 9, 17). -/
structure Write where
  /-- The write returns Ok. -/
  accepted : Bool
  /-- The clock cycles the write blocks for, and what is driven in them. -/
  during   : List EnvCycle
  deriving DecidableEq, Repr

/-- The nine writes of a frame, as the transport and the other agents choose them (spec/43_sensor_session.md R161, R162;
log 9, 17). -/
structure Writes where
  /-- `none`: every write returns Ok; `some i`: the write at offset `i` is the first that returns Err. -/
  reject : Option (Fin 9)
  /-- The clock cycles each write blocks for, and what is driven in them. -/
  during : Vector (List EnvCycle) 9
  deriving DecidableEq, Repr

/-- The writes of a script: one quiet cycle each (spec/30_encoding.md R90). -/
def Writes.quiet (reject : Option (Fin 9)) : Writes := ⟨reject, Vector.replicate 9 [EnvCycle.quiet]⟩

/-- The clock cycle of COLLECT's ARM: the deadline the host drives, and what the other agents drive beside it
(spec/43_sensor_session.md R163; log 24). -/
structure ArmCycle where
  dur : BitVec 16
  env : EnvCycle
  deriving DecidableEq, Repr

/-- What the transport and the other agents choose in a READ_CONCENTRATION up to its ARM (spec/43_sensor_session.md R164). -/
structure Exchange where
  writes : Writes
  arming : EnvCycle
  deriving DecidableEq, Repr

/-- The exchange of a script, every write accepted, every cycle quiet (spec/30_encoding.md R90). -/
def Exchange.quiet : Exchange := ⟨Writes.quiet none, EnvCycle.quiet⟩

/-- The instructions: one constructor per row of spec/opcode_table.json. -/
inductive Instr where
  /-- RST, R122. -/
  | rst
  /-- ARM d, R123 and R124, with the receive and tick channels of the same word (R73, R138). -/
  | arm (dur : BitVec 16) (rx : Option Byte) (tick : Bool)
  /-- RXB b, R126, with the tick channel of the same word. -/
  | rxb (b : Byte) (tick : Bool)
  /-- RXN, R127: the word that names no channel. -/
  | rxn
  /-- TICK, R125: the word that names the tick channel alone. -/
  | tick
  /-- NOP, R128: a name for the word of RXN. -/
  | nop
  /-- TIMEOUT, R129, internal transition. -/
  | timeout
  /-- APPEND, R130, internal transition. -/
  | append (b : Byte)
  /-- VALIDATE, R131, internal transition. -/
  | validate (b : Byte)
  /-- F_READ_CONCENTRATION, R112: no operands. -/
  | fReadConcentration
  /-- F_CALIBRATE_ZERO_POINT, R113: the document fixes no argument. -/
  | fCalibrateZeroPoint (args : Args)
  /-- F_CALIBRATE_SPAN_POINT, R114: the document fixes no argument. -/
  | fCalibrateSpanPoint (args : Args)
  /-- F_SET_AUTO_CALIBRATION, R115. -/
  | fSetAutoCalibration (enabled : Bool)
  /-- F_SET_DETECTION_RANGE, R116: the document fixes no argument. -/
  | fSetDetectionRange (args : Args)
  /-- CHK, R100. -/
  | chk (payload : Payload)
  /-- BUILD, R110: a raw code byte and five argument bytes. -/
  | build (code : Byte) (args : Args)
  /-- TXB b (`accepted = true`) and TXFAIL b (`accepted = false`), R161, R90. -/
  | txb (b : Byte) (write : Write)
  /-- SEND F, R162. -/
  | send (f : Frame) (writes : Writes)
  /-- COLLECT d, R163. -/
  | collect (arm : ArmCycle)
  /-- READ_CONCENTRATION, R164. -/
  | readConcentration (exchange : Exchange)
  /-- SET_AUTO_CALIBRATION, R165. -/
  | setAutoCalibration (enabled : Bool) (writes : Writes)
  /-- SET_RANGE, R166. -/
  | setRange
  deriving DecidableEq, Repr

/-- One line of the script the machine runs (spec/30_encoding.md R89, R90): the input word of one clock cycle, a command
frame the host builds, or a call of one of the rows that have no encoding. -/
inductive Line where
  /-- Format IN, 28 bits (R73). -/
  | word (w : BitVec 28)
  /-- Format FRAME, 72 bits, offset 0 most significant (R71, R72). -/
  | frame (f : BitVec 72)
  /-- A row of format FUNCTION or PSEUDO, which the spec gives no encoding. -/
  | call (i : Instr)
  deriving DecidableEq, Repr

end Sys2Proof
end

