-- ==== Sys2Proof/Machine/Checksum.lean ====
section
/-! DEFINITION. The Checksum unit (spec/40_checksum.md) and the Frame Builder (spec/41_frame_builder.md R110), pure functions on bytes. -/

namespace Sys2Proof.Machine

open Sys2Proof

/-- The exact sum of the eight bytes, before any reduction; at most 2040 (R101(e)). -/
def sumBytes (l : Payload) : Nat :=
  l[0].toNat + l[1].toNat + l[2].toNat + l[3].toNat + l[4].toNat + l[5].toNat + l[6].toNat + l[7].toNat

/-- `CHK`: 255 less the sum modulo 256, with no increment (R100). -/
def chk (l : Payload) : Byte := BitVec.ofNat 8 (255 - sumBytes l % 256)

/-- `CHK_ALT`, the documented alternative that must not be used (R104): no meaning calls it. -/
def chkAlt (l : Payload) : Byte := BitVec.ofNat 8 ((255 - sumBytes l % 256 + 1) % 256)

/-- Offsets 0 to 7 of a frame, `MemRead(0, 8)` (R10, R131). -/
def payload (f : Frame) : Payload := #v[f[0], f[1], f[2], f[3], f[4], f[5], f[6], f[7]]

/-- The predicate `wf` on a sequence of bytes of any length: exactly nine bytes, the last the checksum of the first
eight (R102). -/
def wf : List Byte → Bool
  | [b0, b1, b2, b3, b4, b5, b6, b7, b8] => b8 == chk #v[b0, b1, b2, b3, b4, b5, b6, b7]
  | _ => false

/-- `BUILD`, the document's `build_frame` (R110). -/
def buildFrame (code : Byte) (args : Args) : Frame :=
  #v[Config.startMarker, Config.deviceId, code, args[0], args[1], args[2], args[3], args[4],
    chk #v[Config.startMarker, Config.deviceId, code, args[0], args[1], args[2], args[3], args[4]]]

end Sys2Proof.Machine
end

