-- ==== Sys2Proof/Machine/Operands.lean ====
section
/-! DEFINITION. Operand assembly: the fields of the IN and FRAME formats, the argument blocks, the command codes and the
concentration (spec/30_encoding.md sections 1 to 3). -/

namespace Sys2Proof.Machine

open Sys2Proof

/-- The ports of a cycle from its IN word (R73). -/
def unpackIn (w : BitVec 28) : InPorts where
  rst  := w.getLsbD 27
  arm  := w.getLsbD 26
  dur  := w.extractLsb' 10 16
  rxv  := w.getLsbD 9
  rxd  := w.extractLsb' 1 8
  tick := w.getLsbD 0

/-- The IN word of a cycle's ports (R73), every field at its place, read or not. -/
def packIn (p : InPorts) : BitVec 28 :=
  BitVec.ofBool p.rst ++ BitVec.ofBool p.arm ++ p.dur ++ BitVec.ofBool p.rxv ++ p.rxd ++ BitVec.ofBool p.tick

/-- The receive channel as the document's `read_byte() -> Some(b) | None` (R126, R127). -/
def rxOf (p : InPorts) : Option Byte := if p.rxv then some p.rxd else none

/-- The command channel: the deadline of an ARM, or nothing (R73). -/
def cmdOf (p : InPorts) : Option (BitVec 16) := if p.arm then some p.dur else none

/-- The ports of a cycle with `rst = 0`, given by its three channels; a field that is not read is 0, the canonical
spelling (R73). -/
def channels (cmd : Option (BitVec 16)) (rx : Option Byte) (tick : Bool) : InPorts where
  rst  := false
  arm  := cmd.isSome
  dur  := cmd.getD 0
  rxv  := rx.isSome
  rxd  := rx.getD 0
  tick := tick

/-- The ports of the word RST, canonical spelling (R89). -/
def resetPorts : InPorts where
  rst  := true
  arm  := false
  dur  := 0
  rxv  := false
  rxd  := 0
  tick := false

/-- The 72-bit vector of a frame, offset 0 in the most significant byte (R72). -/
def frameBits (f : Frame) : BitVec 72 :=
  f[0] ++ f[1] ++ f[2] ++ f[3] ++ f[4] ++ f[5] ++ f[6] ++ f[7] ++ f[8]

/-- The nine bytes of a 72-bit vector (R72). -/
def bitsFrame (w : BitVec 72) : Frame :=
  #v[w.extractLsb' 64 8, w.extractLsb' 56 8, w.extractLsb' 48 8, w.extractLsb' 40 8, w.extractLsb' 32 8,
    w.extractLsb' 24 8, w.extractLsb' 16 8, w.extractLsb' 8 8, w.extractLsb' 0 8]

/-- The argument bytes `arg0` to `arg4` of a frame, offsets 3 to 7 (R71). -/
def frameArgs (f : Frame) : Args := #v[f[3], f[4], f[5], f[6], f[7]]

/-- "a zeroed argument block" (R81). -/
def zeroArgs : Args := #v[0, 0, 0, 0, 0]

/-- The argument block of SetAutoCalibration (R81). -/
def autoCalArgs (enabled : Bool) : Args :=
  #v[if enabled then Config.autoCalOn else Config.autoCalOff, 0, 0, 0, 0]

/-- The one-byte code of a command, a parameter (R77). -/
def commandCode (p : Params) : Command → Byte
  | .readConcentration  => p.codeReadConcentration
  | .calibrateZeroPoint => p.codeCalibrateZeroPoint
  | .calibrateSpanPoint => p.codeCalibrateSpanPoint
  | .setAutoCalibration => p.codeSetAutoCalibration
  | .setDetectionRange  => p.codeSetDetectionRange

/-- The concentration: offsets 2 and 3, high byte then low byte (R80). -/
def ppmOf (f : Frame) : BitVec 16 := f[2] ++ f[3]

end Sys2Proof.Machine
end

