-- ==== Sys2Proof/WellFormed.lean ====
section
/-! DEFINITION. What makes a parameter set, a range, an instruction and a line well formed. Every operand's range is already in its type; what is
left are the checks below. -/

namespace Sys2Proof

/-- The five command codes are "five distinct bytes" (spec/00_scope.md R8). -/
def Params.wf (p : Params) : Bool :=
  decide [p.codeReadConcentration, p.codeCalibrateZeroPoint, p.codeCalibrateSpanPoint, p.codeSetAutoCalibration,
    p.codeSetDetectionRange].Nodup

/-- A Range is a member of the closed set `RANGE_SET` (spec/30_encoding.md R78). -/
def Range.wf (p : Params) (r : Range) : Bool := p.rangeSet.contains r.ppm

/-- A row of format FUNCTION or PSEUDO: it has no encoding and stands on a line as a call. -/
def Instr.callable : Instr → Bool
  | .rst | .arm _ _ _ | .rxb _ _ | .rxn | .tick | .nop => false
  | .timeout | .append _ | .validate _ => false
  | .fReadConcentration | .fCalibrateZeroPoint _ | .fCalibrateSpanPoint _ | .fSetAutoCalibration _
  | .fSetDetectionRange _ => false
  | .chk _ | .build _ _ | .txb _ _ | .send _ _ | .collect _ | .readConcentration _ | .setAutoCalibration _ _
  | .setRange => true

/-- A well-formed instruction is one that a line can carry: every row but the three internal transitions, which have
no encoding and which the block takes by itself under a word of another row (spec/30_encoding.md R83;
spec/42_response_collector.md R129 to R131; log 10). -/
def Instr.wf : Instr → Bool
  | .rst | .arm _ _ _ | .rxb _ _ | .rxn | .tick | .nop => true
  | .timeout | .append _ | .validate _ => false
  | .fReadConcentration | .fCalibrateZeroPoint _ | .fCalibrateSpanPoint _ | .fSetAutoCalibration _
  | .fSetDetectionRange _ => true
  | .chk _ | .build _ _ | .txb _ _ | .send _ _ | .collect _ | .readConcentration _ | .setAutoCalibration _ _
  | .setRange => true

/-- A well-formed line: any IN word (spec/30_encoding.md R86: "No IN word is illegal"); a frame with the constants of the
Frame Builder at offsets 0 and 1 (R84); a call of a row that has no encoding. -/
def Line.wf : Line → Bool
  | .word _ => true
  | .frame f => f.extractLsb' 64 8 == Config.startMarker && f.extractLsb' 56 8 == Config.deviceId
  | .call i => i.callable

end Sys2Proof
end

