-- ==== Sys2Proof/Decode.lean ====
section
/-! DEFINITION. The decoder of a line, total, rejecting by name; the encoder; the opcode table's rows; and the reading of a word as
spec/opcode_table.json numbers it. -/

namespace Sys2Proof

open Sys2Proof.Machine

/-- Why a line is no line of the script. -/
inductive DecodeError where
  /-- Offset 0 of a command frame is not 0xFF (spec/30_encoding.md R84). -/
  | badStartMarker
  /-- Offset 1 of a command frame is not 0x01 (R84). -/
  | badDeviceId
  /-- A call line names a row that has an encoding, or an internal transition. -/
  | notACall
  deriving DecidableEq, Repr

/-- Format IN: the instruction of the channels present in the word, RST before ARM before RXB before TICK, and RXN when no
channel is named (R73, R83, R89). Total: no IN word is illegal (R86). Bits that are not read are dropped (log 21). -/
def decodeIn (w : BitVec 28) : Instr :=
  let p := unpackIn w
  if p.rst then .rst
  else if p.arm then .arm p.dur (rxOf p) p.tick
  else if p.rxv then .rxb p.rxd p.tick
  else if p.tick then .tick
  else .rxn

/-- Format FRAME: the command is selected by offset 2 (R84), the arguments are offsets 3 to 7, and offset 8 is not an
operand, being computed (R82). A frame that is none of the five command frames is one that the builder's raw entry makes,
`BUILD code args` (R85, R110; log 12). -/
def decodeFrame (p : Params) (f : BitVec 72) : Except DecodeError Instr :=
  let b := bitsFrame f
  let args := frameArgs b
  if b[0] ≠ Config.startMarker then .error .badStartMarker
  else if b[1] ≠ Config.deviceId then .error .badDeviceId
  else if b[2] = commandCode p .readConcentration ∧ args = zeroArgs then .ok .fReadConcentration
  else if b[2] = commandCode p .calibrateZeroPoint then .ok (.fCalibrateZeroPoint args)
  else if b[2] = commandCode p .calibrateSpanPoint then .ok (.fCalibrateSpanPoint args)
  else if b[2] = commandCode p .setAutoCalibration ∧ args = autoCalArgs true then .ok (.fSetAutoCalibration true)
  else if b[2] = commandCode p .setAutoCalibration ∧ args = autoCalArgs false then .ok (.fSetAutoCalibration false)
  else if b[2] = commandCode p .setDetectionRange then .ok (.fSetDetectionRange args)
  else .ok (.build b[2] args)

/-- The instruction of a line. -/
def decodeLine (p : Params) : Line → Except DecodeError Instr
  | .word w => .ok (decodeIn w)
  | .frame f => decodeFrame p f
  | .call i => if i.callable then .ok i else .error .notACall

/-- The word of a script line, the bitwise OR of the words of its mnemonics (R89): `RST` 0x8000000, `ARM d`
0x4000000 + d * 0x400, `RXB b` 0x0000200 + b * 2, `RXN` 0, `TICK` 0x0000001. -/
def assembleWord (rst : Bool) (cmd : Option (BitVec 16)) (rx : Option Byte) (tick : Bool) : BitVec 28 :=
  (if rst then 0x8000000#28 else 0)
    ||| (match cmd with | some d => 0x4000000#28 + (d.setWidth 28 <<< 10) | none => 0)
    ||| (match rx with | some b => 0x0000200#28 + (b.setWidth 28 <<< 1) | none => 0)
    ||| (if tick then 0x0000001#28 else 0)

/-- The encoder: the canonical line of an instruction. `none` for the internal transitions, which have no encoding. NOP has
the word of RXN (R128). -/
def encode (p : Params) : Instr → Option Line
  | .rst => some (.word (assembleWord true none none false))
  | .arm d rx t => some (.word (assembleWord false (some d) rx t))
  | .rxb b t => some (.word (assembleWord false none (some b) t))
  | .rxn => some (.word (assembleWord false none none false))
  | .tick => some (.word (assembleWord false none none true))
  | .nop => some (.word (assembleWord false none none false))
  | .timeout => none
  | .append _ => none
  | .validate _ => none
  | .fReadConcentration => some (.frame (frameBits (buildFrame (commandCode p .readConcentration) zeroArgs)))
  | .fCalibrateZeroPoint a => some (.frame (frameBits (buildFrame (commandCode p .calibrateZeroPoint) a)))
  | .fCalibrateSpanPoint a => some (.frame (frameBits (buildFrame (commandCode p .calibrateSpanPoint) a)))
  | .fSetAutoCalibration e => some (.frame (frameBits (buildFrame (commandCode p .setAutoCalibration) (autoCalArgs e))))
  | .fSetDetectionRange a => some (.frame (frameBits (buildFrame (commandCode p .setDetectionRange) a)))
  | .chk l => some (.call (.chk l))
  | .build c a => some (.call (.build c a))
  | .txb b w => some (.call (.txb b w))
  | .send f ws => some (.call (.send f ws))
  | .collect a => some (.call (.collect a))
  | .readConcentration x => some (.call (.readConcentration x))
  | .setAutoCalibration e ws => some (.call (.setAutoCalibration e ws))
  | .setRange => some (.call .setRange)

/-- The core instruction of an instruction: NOP is another name for the word of RXN (R128); every other instruction is its
own. -/
def canonical (i : Instr) : Instr := if i = .nop then .rxn else i

/-- The row's match and mask over IN[27:0] (spec/30_encoding.md R83, spec/opcode_table.json). -/
def inRow : Instr → Option (BitVec 28 × BitVec 28)
  | .rst => some (0x8000000, 0x8000000)
  | .arm _ _ _ => some (0x4000000, 0xC000000)
  | .rxb _ _ => some (0x0000200, 0x8000200)
  | .rxn => some (0x0000000, 0x8000200)
  | .tick => some (0x0000001, 0x8000001)
  | .nop => some (0x0000000, 0xC000201)
  | .timeout => some (0x0000000, 0x8000000)
  | .append _ => some (0x0000200, 0x8000200)
  | .validate _ => some (0x0000200, 0x8000200)
  | .fReadConcentration | .fCalibrateZeroPoint _ | .fCalibrateSpanPoint _ | .fSetAutoCalibration _
  | .fSetDetectionRange _ | .chk _ | .build _ _ | .txb _ _ | .send _ _ | .collect _ | .readConcentration _
  | .setAutoCalibration _ _ | .setRange => none

/-- The row's match and mask over the 72-bit vector, with the default codes (spec/30_encoding.md R84). -/
def frameRow : Instr → Option (BitVec 72 × BitVec 72)
  | .fReadConcentration => some (0xFF0186000000000000, 0xFFFFFF000000000000)
  | .fCalibrateZeroPoint _ => some (0xFF0187000000000000, 0xFFFFFF000000000000)
  | .fCalibrateSpanPoint _ => some (0xFF0188000000000000, 0xFFFFFF000000000000)
  | .fSetAutoCalibration _ => some (0xFF0179000000000000, 0xFFFFFF000000000000)
  | .fSetDetectionRange _ => some (0xFF0199000000000000, 0xFFFFFF000000000000)
  | .rst | .arm _ _ _ | .rxb _ _ | .rxn | .tick | .nop | .timeout | .append _ | .validate _ | .chk _ | .build _ _
  | .txb _ _ | .send _ _ | .collect _ | .readConcentration _ | .setAutoCalibration _ _ | .setRange => none

/-- The line whose bits are `w` as spec/opcode_table.json numbers them: 72 bits are a frame (bit 71 the most significant bit of
offset 0, R72), otherwise an IN word of 28 bits (log 20). -/
def tableLine (nbits w : Nat) : Line :=
  if nbits = 72 then .frame (BitVec.ofNat 72 w) else .word (BitVec.ofNat 28 w)

/-- The instruction the decoder reads from a word of the opcode table, with the default command codes; none for a
width that no format has, for bits above the format's, and where the decoder refuses. -/
def decodeTableWord (nbits w : Nat) : Option Instr :=
  if (nbits = 72 ∧ w < 2 ^ 72) ∨ (28 ≤ nbits ∧ nbits ≤ 32 ∧ w < 2 ^ 28) then
    (decodeLine Params.default (tableLine nbits w)).toOption
  else none

end Sys2Proof
end

