-- ==== Sys2Proof/Machine/State.lean ====
section
/-! DEFINITION. The state of the machine, its stops, and the state after reset. -/

namespace Sys2Proof.Machine

open Sys2Proof

/-- The values of the state register `st` (spec/10_state.md R24, spec/30_encoding.md R75). Codes 5 to 7 are never produced and
have no constructor (spec/30_encoding.md R86, spec/92_eei_decisions.md D27; log 5). -/
inductive St where
  | idle
  | await
  | done
  | failedTimedOut
  | failedIntegrity
  deriving DecidableEq, Repr

/-- The block FCV: "The whole state `S` of FCV" (spec/10_state.md R20). -/
structure Fcv where
  /-- `buf[0]` to `buf[8]`, nine registers of 8 bits (R21). -/
  buf       : Frame
  /-- `fill`, 0 to 9 (R22); the 4-bit codes 10 to 15 have no value here (log 5). -/
  fill      : Fin 10
  /-- `cnt`, the one-shot countdown (R23). -/
  cnt       : BitVec 16
  /-- `st` (R24). -/
  st        : St
  /-- `fault_busy`, sticky (R25). -/
  faultBusy : Bool
  deriving DecidableEq, Repr

/-- The procedure that waits for the block (spec/43_sensor_session.md R163, R164): it decides what the wait returns. -/
inductive Waiter where
  | collect
  | readConcentration
  deriving DecidableEq, Repr

/-- The state of the Sensor Session (spec/43_sensor_session.md R168). -/
inductive Session where
  /-- No operation in progress. -/
  | idle
  /-- SEND has run and its caller has not gone on (R162, R168; log 16). -/
  | sending
  /-- A collection is armed and its result awaited; deadline and partial buffer are the block's. -/
  | awaitingResponse (op : Waiter)
  | done
  | failed (e : ErrorKind)
  deriving DecidableEq, Repr

/-- What a host call returns to its caller: the MODEL's own field (log 14), so that a result can be seen in a state. -/
inductive Ret where
  /-- No call has returned yet. -/
  | nothing
  /-- `()`, R165, R166. -/
  | unit
  /-- `Ok` of a write, R161, R162. -/
  | ok
  /-- `Err` of a single write, R161. -/
  | err
  /-- The byte of CHK, R100. -/
  | byte (b : Byte)
  /-- The frame of BUILD (R110) or of COLLECT (R163). -/
  | frame (f : Frame)
  /-- The concentration, R164. -/
  | ppm (v : BitVec 16)
  /-- An error kind, R180. -/
  | error (e : ErrorKind)
  deriving DecidableEq, Repr

/-- The machine: the block, the environment's state the opcode table's rows act on, and the inputs still to come. -/
structure State where
  /-- The block (spec/10_state.md R20). -/
  fcv     : Fcv
  /-- The transmit stream: the bytes the transport has accepted, oldest first (spec/20_memory.md R50(3)). -/
  tx      : List Byte
  /-- The outgoing half of the session's scratch buffer (spec/10_state.md R35). -/
  scratch : Frame
  /-- The Sensor Session's state (spec/43_sensor_session.md R168). -/
  session : Session
  /-- The value of the host call that returned last (the model's own, log 14). -/
  ret     : Ret
  /-- The lines of the coming cycles, first first: the choice of the input words and the host's calls
  (spec/00_scope.md R6, spec/30_encoding.md R89; log 1). -/
  lines   : List Line
  /-- Clock edges so far (the model's own): the index of the next free input word (log 1). -/
  clk     : Nat
  /-- The OPEN parameters (spec/00_scope.md R8); no step writes them (the model's own, log 4). -/
  params  : Params
  deriving DecidableEq, Repr

/-- Why the machine stops with a fault. -/
inductive Fault where
  /-- Raised by a step with a byte to take in AWAIT with `fill = 9`: the write offset would be 9, which "cannot be formed"
  (spec/20_memory.md R51, spec/00_scope.md R10). No reachable state raises it (spec/10_state.md R26(b)). Safe (log 6). -/
  | bufferOffset
  /-- Raised by a host call of the session or the transport (TXB, SEND, COLLECT, the three operations) begun while an
  operation still awaits its response: "undefined and must be prevented by the caller" (spec/00_scope.md R12(a),
  spec/43_sensor_session.md R167). Safe (log 8). -/
  | reentrantOperation
  /-- Raised by `reliedStep` and `reliedWords` of Safety.lean, by no meaning: the host has armed a busy collector, and nothing after may be
  relied on (spec/60_exceptions.md R200, spec/92_eei_decisions.md D14). Safe (log 7). -/
  | hostDutyBroken
  deriving DecidableEq, Repr

/-- Why the machine gives no meaning. -/
inductive Refusal where
  /-- Raised by exec alone, for an instruction that has no meaning yet. Safe. -/
  | notModelled (mnemonic : String)
  /-- Raised by step: the line is no line of the script (spec/30_encoding.md R84, R89); Decode.lean's decoder says why.
  Safe (log 12). -/
  | undecodable
  deriving DecidableEq, Repr

/-- The block after a step with `rst = 1` (spec/10_state.md R36); `buf` is unspecified there and zero here, DESIGN CHOICE
(log 2). -/
def Fcv.reset : Fcv where
  buf       := #v[0, 0, 0, 0, 0, 0, 0, 0, 0]
  fill      := 0
  cnt       := 0
  st        := .idle
  faultBusy := false

/-- The machine right after reset: the block as R36 says, no operation in progress, nothing sent, no input placed
(log 1, 3, 4). -/
def State.reset : State where
  fcv     := Fcv.reset
  tx      := []
  scratch := #v[0, 0, 0, 0, 0, 0, 0, 0, 0]
  session := .idle
  ret     := .nothing
  lines   := []
  clk     := 0
  params  := Params.default

end Sys2Proof.Machine
end

