-- ==== Sys2Proof/Machine/Flags.lean ====
section
/-! DEFINITION. The derived flags and the outputs of the block (spec/10_state.md sections 4 and 5, spec/42_response_collector.md R121), and
the numeric codes of states and errors. -/

namespace Sys2Proof.Machine

open Sys2Proof

/-- The code of a state on the port `st` (spec/30_encoding.md R75). -/
def stCode : St → BitVec 3
  | .idle            => 0
  | .await           => 1
  | .done            => 2
  | .failedTimedOut  => 3
  | .failedIntegrity => 4

/-- The code of an error kind (spec/30_encoding.md R76). -/
def errorCode : ErrorKind → BitVec 3
  | .writeFailed      => 1
  | .timedOut         => 2
  | .integrityFailure => 3
  | .invalidArgument  => 4

/-- The error kind a state of the block stands for (spec/60_exceptions.md R184). -/
def stError : St → Option ErrorKind
  | .failedTimedOut  => some .timedOut
  | .failedIntegrity => some .integrityFailure
  | .idle | .await | .done => none

/-- `expired`: `cnt == 0`, read before the edge (spec/10_state.md R27). -/
def expired (f : Fcv) : Bool := f.cnt == 0#16

/-- `busy` (R28). -/
def busy (f : Fcv) : Bool := f.st == .await

/-- `frame_valid` (R28). -/
def frameValid (f : Fcv) : Bool := f.st == .done

/-- `err`, 0 unless `st` is a failed state (R30, spec/30_encoding.md R76). -/
def errOut (f : Fcv) : BitVec 3 :=
  match stError f.st with
  | some e => errorCode e
  | none => 0

/-- `failed`, "observable as `err != 0`" (R28). -/
def failed (f : Fcv) : Bool := f.st == .failedTimedOut || f.st == .failedIntegrity

/-- `frame`: the nine bytes while `st = DONE`, all zeros in every other state (R32). -/
def frameOut (f : Fcv) : BitVec 72 := if f.st = .done then frameBits f.buf else 0

/-- `rx_take`: 1 in exactly the steps that consume a byte (R29). -/
def rxTake (f : Fcv) (p : InPorts) : Bool := !p.rst && f.st == .await && !expired f && p.rxv

/-- The output ports of one clock cycle (R30). -/
structure OutPorts where
  frame      : BitVec 72
  st         : BitVec 3
  err        : BitVec 3
  busy       : Bool
  frameValid : Bool
  rxTake     : Bool
  faultBusy  : Bool
  deriving DecidableEq, Repr

/-- The output function `out(S, IN)` (spec/42_response_collector.md R121). -/
def out (f : Fcv) (p : InPorts) : OutPorts where
  frame      := frameOut f
  st         := stCode f.st
  err        := errOut f
  busy       := busy f
  frameValid := frameValid f
  rxTake     := rxTake f p
  faultBusy  := f.faultBusy

/-- Format OUT, 82 bits (spec/30_encoding.md R74). -/
def packOut (o : OutPorts) : BitVec 82 :=
  o.frame ++ o.st ++ o.err ++ BitVec.ofBool o.busy ++ BitVec.ofBool o.frameValid ++ BitVec.ofBool o.rxTake
    ++ BitVec.ofBool o.faultBusy

/-- The result of a collection, `Frame | TimedOut | IntegrityFailure` (spec/00_scope.md R11). -/
inductive Observation where
  | frame (f : Frame)
  | timedOut
  | integrityFailure
  deriving DecidableEq, Repr

/-- The observation a state of the block shows; none while no collection has ended (R11). -/
def observe (f : Fcv) : Option Observation :=
  match f.st with
  | .idle            => none
  | .await           => none
  | .done            => some (.frame (bitsFrame (frameOut f)))
  | .failedTimedOut  => some .timedOut
  | .failedIntegrity => some .integrityFailure

end Sys2Proof.Machine
end

