-- ==== Sys2Proof/Machine/Ops.lean ====
section
/-! DEFINITION. The named operations the meanings are written over: the block's transitions, one clock cycle, the end of a session's wait,
and fetching a line. -/

namespace Sys2Proof.Machine

open Sys2Proof

/-! ## Errors of the block (spec/60_exceptions.md section 4) -/

/-- The two error kinds the block raises (R180, R184). -/
inductive BlockError where
  | timedOut
  | integrityFailure
  deriving DecidableEq, Repr

/-- Failure entry, "`raise E`": `st <- FAILED_E`, and for TimedOut `fill <- 0`; nothing is saved, `cnt` and `buf` are not
touched (R184, R189). There is no return from it: a failed state is left by an accepted ARM or by RST (R191). -/
def raiseError (e : BlockError) (f : Fcv) : Fcv :=
  match e with
  | .timedOut => { f with st := .failedTimedOut, fill := 0 }
  | .integrityFailure => { f with st := .failedIntegrity }

/-! ## Transitions of the block (spec/42_response_collector.md sections 2 and 3) -/

/-- RST: `buf` keeps its contents (R122). -/
def resetFcv (f : Fcv) : Fcv := { f with st := .idle, fill := 0, cnt := 0, faultBusy := false }

/-- ARM accepted (R123). -/
def armAccept (d : BitVec 16) (f : Fcv) : Fcv := { f with st := .await, fill := 0, cnt := d }

/-- ARM refused: the flag alone (R124). -/
def armRefuse (f : Fcv) : Fcv := { f with faultBusy := true }

/-- TICK: a saturating decrement (R125). -/
def countTick (f : Fcv) : Fcv := if f.cnt = 0#16 then f else { f with cnt := f.cnt - 1 }

/-- APPEND: `MemWrite(fill, 1, b); fill <- fill + 1` (R130); for `fill <= 7`. -/
def appendByte (b : Byte) (f : Fcv) : Fcv :=
  { f with buf := f.buf.setIfInBounds f.fill.val b, fill := f.fill + 1 }

/-- VALIDATE: the ninth byte is stored, and compared with the checksum of offsets 0 to 7 as they were before the edge
(R131). -/
def validateByte (b : Byte) (f : Fcv) : Fcv :=
  let g := { f with buf := f.buf.set 8 b, fill := 9 }
  if b = chk (payload f.buf) then { g with st := .done } else raiseError .integrityFailure g

/-- A byte that is taken: APPEND for `fill <= 7`, else VALIDATE (R126). -/
def takeByte (b : Byte) (f : Fcv) : Fcv := if f.fill ≤ 7 then appendByte b f else validateByte b f

/-- One iteration of the polling loop: the deadline check first, then the read (R120, R129). -/
def poll (rx : Option Byte) (f : Fcv) : Fcv :=
  if f.st = .await then
    if f.cnt = 0#16 then raiseError .timedOut f
    else
      match rx with
      | some b => takeByte b f
      | none => f
  else f

/-- The step of the block (R120): reset, then an accepted ARM, else the poll, the tick and a refused ARM. -/
def stepFcv (p : InPorts) (f : Fcv) : Fcv :=
  if p.rst then resetFcv f
  else if p.arm ∧ f.st ≠ .await then armAccept p.dur f
  else
    let polled := poll (rxOf p) f
    let ticked := if p.tick then countTick polled else polled
    if p.arm then armRefuse ticked else ticked

/-- The step would write the buffer at offset 9, which does not exist (spec/00_scope.md R10, spec/20_memory.md R51): a byte
to take in AWAIT with `fill = 9`, which no reachable state has (log 6). -/
def offsetMissing (p : InPorts) (f : Fcv) : Bool := rxTake f p && f.fill == 9

/-! ## The session's wait and one clock cycle -/

/-- An operation of the session awaits its response. -/
def waiting (s : State) : Bool :=
  match s.session with
  | .awaitingResponse _ => true
  | .idle | .sending | .done | .failed _ => false

/-- What a wait returns on a frame: COLLECT the frame (spec/43_sensor_session.md R163), READ_CONCENTRATION the big-endian
value at offsets 2 and 3 (R164). -/
def waitResult (op : Waiter) (f : Frame) : Ret :=
  match op with
  | .collect => .frame f
  | .readConcentration => .ppm (ppmOf f)

/-- "wait while busy == 1", then the three results of R163, the errors verbatim (R164). A reset ends the wait with no
result (log 15). Nothing happens while the block is busy. THE MODEL'S CHOICE (log 25): nothing happens either while no operation waits, so
that Done, Failed and Sending, and `ret`, stay over a reset, a raw ARM and a raw collection, although `st` is then no longer the value that
spec/43_sensor_session.md R168 pairs with them (spec/70_reset_and_hazards.md R210 and spec/10_state.md R36 name the block's registers
alone). -/
def settle (s : State) : State :=
  match s.session with
  | .awaitingResponse op =>
    match s.fcv.st with
    | .await => s
    | .done => { s with session := .done, ret := waitResult op (bitsFrame (frameOut s.fcv)) }
    | .failedTimedOut => { s with session := .failed .timedOut, ret := .error .timedOut }
    | .failedIntegrity => { s with session := .failed .integrityFailure, ret := .error .integrityFailure }
    | .idle => { s with session := .idle }
  | .idle | .sending | .done | .failed _ => s

/-- A clock edge that leaves the block in `g`. -/
def edge (g : Fcv) (s : State) : State := settle { s with fcv := g, clk := s.clk + 1 }

/-- The state after one clock cycle with the ports `p`. -/
def clocked (p : InPorts) (s : State) : State := edge (stepFcv p s.fcv) s

/-- One clock cycle with the ports `p` (spec/00_scope.md R7). -/
def clockCycle (p : InPorts) (s : State) : Host.Outcome State Fault Refusal :=
  if offsetMissing p s.fcv then .fault .bufferOffset else .next (clocked p s)

/-- A host call on the session or its transport: operations are not reentrant, and one begun while another awaits its
response is undefined (spec/00_scope.md R12(a); log 8). -/
def hostCall (s : State) (k : Host.Outcome State Fault Refusal) : Host.Outcome State Fault Refusal :=
  if waiting s then .fault .reentrantOperation else k

/-! ## Frames, writes and waits -/

/-- `BUILD` into the session's scratch buffer (spec/41_frame_builder.md R110, spec/10_state.md R35). -/
def buildInto (code : Byte) (args : Args) (s : State) : State := { s with scratch := buildFrame code args }

/-- A call of the Frame Builder, which returns the frame (R110). THE MODEL'S CHOICE (log 23): it runs, and overwrites scratch, also
while an operation of the session awaits its response, where the spec says only that the session owns the buffer with no concurrent
access (spec/43_sensor_session.md R160). -/
def buildCall (code : Byte) (args : Args) (s : State) : State :=
  { buildInto code args s with ret := .frame (buildFrame code args) }

/-- An outcome, gone on with where it is a next state. -/
def andThen (o : Host.Outcome State Fault Refusal) (k : State → Host.Outcome State Fault Refusal) :
    Host.Outcome State Fault Refusal :=
  match o with
  | .next t => k t
  | .fault e => .fault e
  | .refused r => .refused r

/-- Clock cycles in which the host drives nothing and the other agents what they choose. -/
def envCycles : List EnvCycle → State → Host.Outcome State Fault Refusal
  | [], s => .next s
  | c :: cs, s => andThen (clockCycle (channels none c.rx c.tick) s) (envCycles cs)

/-- One blocking write: while it blocks, the block's words are "whatever the other agents drive" (spec/43_sensor_session.md R161;
log 9); then the byte is appended to the transmit stream exactly when the transport accepts it. -/
def writeByte (b : Byte) (write : Write) (s : State) : Host.Outcome State Fault Refusal :=
  andThen (envCycles write.during s) fun t => .next (if write.accepted then { t with tx := t.tx ++ [b] } else t)

/-- A rejected write ends the operation: the session has failed with `WriteFailed` (R162, R168). -/
def writeFailed (s : State) : State := { s with session := .failed .writeFailed, ret := .error .writeFailed }

/-- Writes in order, each with the cycles it blocks for, until the first that the transport rejects, which is the write numbered
`reject`; the operation goes on with `k` when all were accepted (R162). -/
def writeAll (k : State → Host.Outcome State Fault Refusal) :
    List (Byte × List EnvCycle) → Option Nat → State → Host.Outcome State Fault Refusal
  | [], _, s => k s
  | (b, cs) :: _, some 0, s => andThen (writeByte b ⟨false, cs⟩ s) fun t => .next (writeFailed t)
  | (b, cs) :: ws, some (n + 1), s => andThen (writeByte b ⟨true, cs⟩ s) (writeAll k ws (some n))
  | (b, cs) :: ws, none, s => andThen (writeByte b ⟨true, cs⟩ s) (writeAll k ws none)

/-- `SEND F`: Sending, then nine writes, offset 0 first, then `k` (R162, R168). -/
def sendFrame (f : Frame) (writes : Writes) (k : State → Host.Outcome State Fault Refusal) (s : State) :
    Host.Outcome State Fault Refusal :=
  writeAll k (f.toList.zip writes.during.toList) (writes.reject.map Fin.val) { s with session := .sending }

/-- The first line of `COLLECT`: the ARM word for one cycle, after which the session awaits the response (R163). The other
agents drive the word's receive and tick channels, which act where the ARM is refused (R124). THE MODEL'S CHOICE (log 24): begun in
AWAIT, which R163 does not allow for, the ARM is refused and the session awaits the collection that is in progress. -/
def startCollect (op : Waiter) (arm : ArmCycle) (s : State) : Host.Outcome State Fault Refusal :=
  andThen (clockCycle (channels (some arm.dur) arm.env.rx arm.env.tick) s) fun t =>
    .next (settle { t with session := .awaitingResponse op })

/-- The wait of `COLLECT` over the input words the environment has chosen, one cycle a word, until the block is no longer
busy (R163, spec/30_encoding.md R90). What is left of the script stays in `lines`; if the words end first, the call has not
returned and the session still awaits (log 13). -/
def awaitResponse : List Line → State → Host.Outcome State Fault Refusal
  | [], s => .next { s with lines := [] }
  | .word w :: ls, s =>
    if waiting s then
      match clockCycle (unpackIn w) s with
      | .next t => awaitResponse ls t
      | .fault e => .fault e
      | .refused r => .refused r
    else .next { s with lines := .word w :: ls }
  | .frame f :: ls, s => .next { s with lines := .frame f :: ls }
  | .call i :: ls, s => .next { s with lines := .call i :: ls }

/-! ## Fetching -/

/-- The line of the next step: the first of the script, or, when the script has run out, the free input word of the next
clock cycle (log 1). -/
def fetchLine (s : State) : Line :=
  match s.lines with
  | l :: _ => l
  | [] => .word (Config.freeInput s.clk)

/-- The state once its line has been fetched. -/
def dropLine (s : State) : State := { s with lines := s.lines.tail }

end Sys2Proof.Machine
end

