-- ==== Sys2Proof/Machine/Frames.lean ====
section
/-! DEFINITION. The meanings of the Checksum and Frame Builder rows and of the five command frames (spec/40_checksum.md,
spec/41_frame_builder.md). A frame is built into the session's scratch buffer and returned; none of these rows sends it, and none touches the block. -/

namespace Sys2Proof.Machine

open Sys2Proof

/-- CHK (R100): a pure function; its byte is the returned value (log 14). -/
def execChk (l : Payload) (s : State) : Host.Outcome State Fault Refusal := .next { s with ret := .byte (chk l) }

/-- BUILD (R110), the raw entry. -/
def execBuild (code : Byte) (args : Args) (s : State) : Host.Outcome State Fault Refusal :=
  .next (buildCall code args s)

/-- F_READ_CONCENTRATION (R112). -/
def execFReadConcentration (s : State) : Host.Outcome State Fault Refusal :=
  .next (buildCall (commandCode s.params .readConcentration) zeroArgs s)

/-- F_CALIBRATE_ZERO_POINT (R113). -/
def execFCalibrateZeroPoint (args : Args) (s : State) : Host.Outcome State Fault Refusal :=
  .next (buildCall (commandCode s.params .calibrateZeroPoint) args s)

/-- F_CALIBRATE_SPAN_POINT (R114). -/
def execFCalibrateSpanPoint (args : Args) (s : State) : Host.Outcome State Fault Refusal :=
  .next (buildCall (commandCode s.params .calibrateSpanPoint) args s)

/-- F_SET_AUTO_CALIBRATION (R115). -/
def execFSetAutoCalibration (enabled : Bool) (s : State) : Host.Outcome State Fault Refusal :=
  .next (buildCall (commandCode s.params .setAutoCalibration) (autoCalArgs enabled) s)

/-- F_SET_DETECTION_RANGE (R116). -/
def execFSetDetectionRange (args : Args) (s : State) : Host.Outcome State Fault Refusal :=
  .next (buildCall (commandCode s.params .setDetectionRange) args s)

end Sys2Proof.Machine
end

