-- ==== Sys2Proof/Machine/InWords.lean ====
section
/-! DEFINITION. The meanings of the input-word operations (spec/42_response_collector.md section 2). -/

namespace Sys2Proof.Machine

open Sys2Proof

/-- RST (R122). -/
def execRst (s : State) : Host.Outcome State Fault Refusal := clockCycle resetPorts s

/-- ARM d, accepted (R123) or refused (R124), with the other channels of its word (R138). -/
def execArm (d : BitVec 16) (rx : Option Byte) (tick : Bool) (s : State) : Host.Outcome State Fault Refusal :=
  clockCycle (channels (some d) rx tick) s

/-- RXB b, with the tick channel of its word (R126, R138). -/
def execRxb (b : Byte) (tick : Bool) (s : State) : Host.Outcome State Fault Refusal :=
  clockCycle (channels none (some b) tick) s

/-- RXN: a poll that finds nothing (R127). -/
def execRxn (s : State) : Host.Outcome State Fault Refusal := clockCycle (channels none none false) s

/-- TICK alone in its word: the poll finds nothing, and the tick counts (R125). -/
def execTick (s : State) : Host.Outcome State Fault Refusal := clockCycle (channels none none true) s

/-- NOP: the word 0x0000000 (R128). -/
def execNop (s : State) : Host.Outcome State Fault Refusal := clockCycle (unpackIn 0) s

end Sys2Proof.Machine
end

