-- ==== Sys2Proof/Machine/Procedures.lean ====
section
/-! DEFINITION. The meanings of the host's procedures (spec/43_sensor_session.md). -/

namespace Sys2Proof.Machine

open Sys2Proof

/-- TXB b and TXFAIL b (R161). -/
def execTxb (b : Byte) (write : Write) (s : State) : Host.Outcome State Fault Refusal :=
  hostCall s (andThen (writeByte b write s) fun t => .next { t with ret := if write.accepted then .ok else .err })

/-- SEND F (R162). -/
def execSend (f : Frame) (writes : Writes) (s : State) : Host.Outcome State Fault Refusal :=
  hostCall s (sendFrame f writes (fun t => .next { t with ret := .ok }) s)

/-- COLLECT d (R163). -/
def execCollect (arm : ArmCycle) (s : State) : Host.Outcome State Fault Refusal :=
  hostCall s (andThen (startCollect .collect arm s) (awaitResponse s.lines))

/-- READ_CONCENTRATION (R164): build, send, and only if all nine bytes went out, collect with the fixed budget. -/
def execReadConcentration (exchange : Exchange) (s : State) : Host.Outcome State Fault Refusal :=
  hostCall s
    (sendFrame (buildFrame (commandCode s.params .readConcentration) zeroArgs) exchange.writes
      (fun t => andThen (startCollect .readConcentration ⟨Config.timeoutTicks, exchange.arming⟩ t) (awaitResponse s.lines))
      (buildInto (commandCode s.params .readConcentration) zeroArgs s))

/-- SET_AUTO_CALIBRATION on or off (R165): no collection is started. -/
def execSetAutoCalibration (enabled : Bool) (writes : Writes) (s : State) : Host.Outcome State Fault Refusal :=
  hostCall s
    (sendFrame (buildFrame (commandCode s.params .setAutoCalibration) (autoCalArgs enabled)) writes
      (fun t => .next { t with session := .done, ret := .unit })
      (buildInto (commandCode s.params .setAutoCalibration) (autoCalArgs enabled) s))

/-- SET_RANGE (R166): a no-op that returns `()`. That the session is then Done is the model's choice (log 16). -/
def execSetRange (s : State) : Host.Outcome State Fault Refusal :=
  hostCall s (.next { s with session := .done, ret := .unit })

end Sys2Proof.Machine
end

