-- ==== Sys2Proof/Machine/Transitions.lean ====
section
/-! DEFINITION. The meanings of the internal transitions (spec/42_response_collector.md section 3). The block takes one by itself, under its condition,
in a cycle whose word names no other channel; where the condition fails the transition is not taken and nothing changes (log 11). -/

namespace Sys2Proof.Machine

open Sys2Proof

/-- The block is polling and its deadline has not passed. -/
def polling (f : Fcv) : Bool := f.st == .await && !expired f

/-- TIMEOUT (R129): in AWAIT with `cnt = 0`. -/
def execTimeout (s : State) : Host.Outcome State Fault Refusal :=
  if s.fcv.st = .await ∧ expired s.fcv then .next (edge (raiseError .timedOut s.fcv) s) else .next s

/-- APPEND (R130): in AWAIT with `cnt != 0` and `fill <= 7`. -/
def execAppend (b : Byte) (s : State) : Host.Outcome State Fault Refusal :=
  if polling s.fcv ∧ s.fcv.fill ≤ 7 then .next (edge (appendByte b s.fcv) s) else .next s

/-- VALIDATE (R131): in AWAIT with `cnt != 0` and `fill = 8`. -/
def execValidate (b : Byte) (s : State) : Host.Outcome State Fault Refusal :=
  if polling s.fcv ∧ s.fcv.fill = 8 then .next (edge (validateByte b s.fcv) s) else .next s

end Sys2Proof.Machine
end

