-- ==== Sys2Proof/Machine/Dispatch.lean ====
section
/-! DEFINITION. The meaning of every instruction, one arm per row of spec/opcode_table.json. -/

namespace Sys2Proof.Machine

open Sys2Proof

def exec (i : Instr) (s : State) : Host.Outcome State Fault Refusal :=
  match i with
  | .rst => Sys2Proof.Machine.execRst s
  | .arm dur rx tick => Sys2Proof.Machine.execArm dur rx tick s
  | .rxb b tick => Sys2Proof.Machine.execRxb b tick s
  | .rxn => Sys2Proof.Machine.execRxn s
  | .tick => Sys2Proof.Machine.execTick s
  | .nop => Sys2Proof.Machine.execNop s
  | .timeout => Sys2Proof.Machine.execTimeout s
  | .append b => Sys2Proof.Machine.execAppend b s
  | .validate b => Sys2Proof.Machine.execValidate b s
  | .fReadConcentration => Sys2Proof.Machine.execFReadConcentration s
  | .fCalibrateZeroPoint args => Sys2Proof.Machine.execFCalibrateZeroPoint args s
  | .fCalibrateSpanPoint args => Sys2Proof.Machine.execFCalibrateSpanPoint args s
  | .fSetAutoCalibration enabled => Sys2Proof.Machine.execFSetAutoCalibration enabled s
  | .fSetDetectionRange args => Sys2Proof.Machine.execFSetDetectionRange args s
  | .chk payload => Sys2Proof.Machine.execChk payload s
  | .build code args => Sys2Proof.Machine.execBuild code args s
  | .txb b write => Sys2Proof.Machine.execTxb b write s
  | .send f writes => Sys2Proof.Machine.execSend f writes s
  | .collect arm => Sys2Proof.Machine.execCollect arm s
  | .readConcentration exchange => Sys2Proof.Machine.execReadConcentration exchange s
  | .setAutoCalibration enabled writes => Sys2Proof.Machine.execSetAutoCalibration enabled writes s
  | .setRange => Sys2Proof.Machine.execSetRange s

end Sys2Proof.Machine
end

