-- ==== Sys2Proof/Machine/Step.lean ====
section
/-! DEFINITION. One step of the machine: fetch a line, decode it, run it. -/

namespace Sys2Proof.Machine

open Sys2Proof

/-- One step. A line that is an IN word is one clock cycle of the block (spec/00_scope.md R7). -/
def step (s : State) : Host.Outcome State Fault Refusal :=
  match decodeLine s.params (fetchLine s) with
  | .ok i => exec i (dropLine s)
  | .error _ => .refused .undecodable

/-- The state with the instruction of an opcode-table word placed in front of the script, where step fetches. -/
def State.withFetchWord (s : State) (nbits w : Nat) : State := { s with lines := tableLine nbits w :: s.lines }

end Sys2Proof.Machine
end

