-- ==== Sys2Proof/Machine/Script.lean ====
section
/-! DEFINITION. The stimulus script and its pseudo-instructions, each with its expansion into lines (spec/30_encoding.md R89, R90). -/

namespace Sys2Proof.Machine

open Sys2Proof

/-- A line of a script as it is written. -/
inductive ScriptLine where
  /-- Mnemonics joined by `|`, at most one per channel (R89). -/
  | cycle (rst : Bool) (cmd : Option (BitVec 16)) (rx : Option Byte) (tick : Bool)
  | nop
  | idle (n : Nat)
  | wait (n : Nat)
  | rxFrame (f : Frame)
  | rxGood (l : Payload)
  | txb (b : Byte)
  | txFail (b : Byte)
  | txFrame (code : Byte) (args : Args)
  | readConcentration
  | setAutoCalibration (enabled : Bool)
  | setRange
  deriving DecidableEq, Repr

/-- The IN word of a byte offered alone, `RXB b` (R89). -/
def rxbWord (b : Byte) : BitVec 28 := assembleWord false none (some b) false

/-- The words of `RXFRAME` (R90). -/
def rxWords (f : Frame) : List (BitVec 28) := f.toList.map rxbWord

/-- The lines of `TXFRAME code args`: nine writes that return Ok, each while the block gets a NOP word
(R90). -/
def txLines (code : Byte) (args : Args) : List Line :=
  (buildFrame code args).toList.map fun b => .call (.txb b ⟨true, [.quiet]⟩)

/-- The expansion of a script line (R90). -/
def expand (p : Params) : ScriptLine → List Line
  | .cycle rst cmd rx tick => [.word (assembleWord rst cmd rx tick)]
  | .nop => [.word 0]
  | .idle n => List.replicate n (.word 0)
  | .wait n => List.replicate n (.word (assembleWord false none none true))
  | .rxFrame f => (rxWords f).map .word
  | .rxGood l => (rxWords #v[l[0], l[1], l[2], l[3], l[4], l[5], l[6], l[7], chk l]).map .word
  | .txb b => [.call (.txb b ⟨true, [.quiet]⟩)]
  | .txFail b => [.call (.txb b ⟨false, [.quiet]⟩)]
  | .txFrame code args => txLines code args
  | .readConcentration =>
    txLines (commandCode p .readConcentration) zeroArgs
      ++ [.word (assembleWord false (some Config.timeoutTicks) none false)]
  | .setAutoCalibration e => txLines (commandCode p .setAutoCalibration) (autoCalArgs e)
  | .setRange => []

/-- The lines of a whole script. -/
def assemble (p : Params) (script : List ScriptLine) : List Line := script.flatMap (expand p)

end Sys2Proof.Machine
end

