-- ==== Sys2Proof/Safety.lean ====
section
/-! DEFINITION. The terms claims are stated in: the invariants of reachable states, the duties of the host, a faulted run, a run over input words,
and the document's own account of a collection. -/

namespace Sys2Proof.Machine

open Sys2Proof

/-- The invariants of every reachable state of the block, (b) to (f) of spec/10_state.md R26; (a) `fill <= 9` and (g)
`st <= 4` hold by the types of `fill` and `st`. -/
abbrev FcvInv (f : Fcv) : Prop :=
  (f.st = .await → f.fill ≤ 8) ∧
  (f.st = .done → f.fill = 9 ∧ f.buf[8] = chk (payload f.buf)) ∧
  (f.st = .failedIntegrity → f.fill = 9 ∧ f.buf[8] ≠ chk (payload f.buf)) ∧
  (f.st = .failedTimedOut → f.fill = 0) ∧
  (f.st = .idle → f.fill = 0)

/-- The invariant of the machine: the block's, and of the session: an operation awaits a response only while the block
is busy (spec/43_sensor_session.md R163, R168), and `InvalidArgument` is never produced (spec/60_exceptions.md R185). -/
abbrev Inv (s : State) : Prop :=
  FcvInv s.fcv ∧
  (waiting s = true → s.fcv.st = .await) ∧
  s.ret ≠ .error .invalidArgument ∧
  s.session ≠ .failed .invalidArgument

/-- The host's duty of spec/00_scope.md R12(a) in a cycle with the ports `p`: no ARM while a collection is in progress. -/
def dutyKept (p : InPorts) (f : Fcv) : Bool := p.rst || !p.arm || f.st != .await

/-- A run in which the host has armed a busy collector: nothing after it may be relied on, and a claim about a collection or an operation
takes `faulted s = false` as a premise (spec/60_exceptions.md R200, spec/92_eei_decisions.md D14, spec/93_implementation_defined.md U1;
log 7). -/
def faulted (s : State) : Bool := s.fcv.faultBusy

/-- A state with another `fault_busy`. -/
def withFaultBusy (b : Bool) (s : State) : State := { s with fcv := { s.fcv with faultBusy := b } }

/-- Some clock cycle of a wait over these lines leaves `fault_busy` set, whether or not a later cycle of the wait clears it: the cycles are
those of `awaitResponse`. -/
def waitFaults : List Line → State → Bool
  | [], _ => false
  | .word w :: ls, s =>
    waiting s &&
      match clockCycle (unpackIn w) s with
      | .next t => faulted t || waitFaults ls t
      | .fault _ => false
      | .refused _ => false
  | .frame _ :: _, _ => false
  | .call _ :: _, _ => false

/-- Some clock cycle of an instruction, begun with the rest of the script in `lines`, leaves `fault_busy` set: one before any wait that it
begins, or one of that wait. In the writes before a wait the host drives nothing (log 9), so none is left out. -/
def faultsDuring (i : Instr) (s : State) : Bool :=
  match exec i { s with lines := [] } with
  | .next t => faulted t || (!waiting s && waitFaults s.lines t)
  | .fault _ => false
  | .refused _ => false

/-- The step sets `fault_busy` in one of its clock cycles, in a state where it is 0. -/
def stepFaults (s : State) : Bool :=
  match decodeLine s.params (fetchLine s) with
  | .ok i => faultsDuring i (dropLine s)
  | .error _ => false

/-- One step of a run that may be relied on: a step that sets `fault_busy` in any of its clock cycles is a fault, and so is every step
of a faulted run (R200, D14). -/
def reliedStep (s : State) : Host.Outcome State Fault Refusal :=
  if faulted s || stepFaults s then .fault .hostDutyBroken else step s

/-- Terminal states of a collection (spec/00_scope.md R11). -/
def terminal (f : Fcv) : Bool := frameValid f || failed f

/-! ## The state-transfer table, register by register

Each register's value after a step, read down the rows of spec/42_response_collector.md R132 in priority order. -/

/-- The step takes a byte: AWAIT, `cnt != 0`, `rxv = 1`, and no reset. -/
def takes (p : InPorts) (f : Fcv) : Bool := f.st == .await && f.cnt != 0#16 && p.rxv

/-- `st` after the step. -/
def nextSt (p : InPorts) (f : Fcv) : St :=
  if p.rst then .idle
  else if f.st = .await then
    if f.cnt = 0#16 then .failedTimedOut
    else if p.rxv ∧ f.fill = 8 then if p.rxd = chk (payload f.buf) then .done else .failedIntegrity
    else .await
  else if p.arm then .await
  else f.st

/-- `fill` after the step. -/
def nextFill (p : InPorts) (f : Fcv) : Nat :=
  if p.rst then 0
  else if f.st = .await then if f.cnt = 0#16 then 0 else if p.rxv then f.fill.val + 1 else f.fill.val
  else if p.arm then 0
  else f.fill.val

/-- `cnt` after the step. -/
def nextCnt (p : InPorts) (f : Fcv) : Nat :=
  if p.rst then 0
  else if p.arm ∧ f.st ≠ .await then p.dur.toNat
  else if p.tick then f.cnt.toNat - 1
  else f.cnt.toNat

/-- `buf[i]` after the step. -/
def nextBuf (p : InPorts) (f : Fcv) (i : Fin 9) : Byte :=
  if p.rst then f.buf[i.val] else if takes p f ∧ f.fill.val = i.val then p.rxd else f.buf[i.val]

/-- `fault_busy` after the step. -/
def nextFaultBusy (p : InPorts) (f : Fcv) : Bool :=
  if p.rst then false else f.faultBusy || (p.arm && f.st == .await)

/-! ## Runs -/

/-- The machine over a sequence of input words, one clock cycle a word; it stops at the first fault or refusal. -/
def runWords : List (BitVec 28) → State → Host.Outcome State Fault Refusal
  | [], s => .next s
  | w :: ws, s =>
    match exec (decodeIn w) s with
    | .next t => runWords ws t
    | .fault e => .fault e
    | .refused r => .refused r

/-- The same over a run that may be relied on: a word that sets `fault_busy` is a fault (R200, D14), so the premise `fault_busy = 0`
holds of every state of the run and not of the first alone. -/
def reliedWords : List (BitVec 28) → State → Host.Outcome State Fault Refusal
  | [], s => .next s
  | w :: ws, s =>
    match exec (decodeIn w) s with
    | .next t => if faulted t then .fault .hostDutyBroken else reliedWords ws t
    | .fault e => .fault e
    | .refused r => .refused r

/-- The machine over `k` steps; it stops at the first fault or refusal. -/
def runSteps : Nat → State → Host.Outcome State Fault Refusal
  | 0, s => .next s
  | k + 1, s =>
    match step s with
    | .next t => runSteps k t
    | .fault e => .fault e
    | .refused r => .refused r

/-- The block after cycles in which the host drives nothing and the other agents what `cs` says. -/
def blockAfter (cs : List EnvCycle) (f : Fcv) : Fcv :=
  cs.foldl (fun g c => stepFcv (channels none c.rx c.tick) g) f

/-- The cycles of the first `n` writes of a frame, in order. -/
def cyclesOf (writes : Vector (List EnvCycle) 9) (n : Nat) : List EnvCycle := (writes.toList.take n).flatten

/-- A word that leaves the command channel and the reset alone: what the other agents can do in a cycle. -/
def envWord (w : BitVec 28) : Bool := !(unpackIn w).rst && !(unpackIn w).arm

/-- The number of ticks in a sequence of words. -/
def tickCount (ws : List (BitVec 28)) : Nat := ws.countP fun w => (unpackIn w).tick

/-- The contract of `collect`, `Frame | TimedOut | IntegrityFailure`, over plain byte sequences. -/
inductive CollectResult where
  | frame (bytes : List Byte)
  | timedOut
  | integrityFailure
  deriving DecidableEq, Repr

/-- The result a state of the block shows (spec/00_scope.md R11). -/
def resultOf (f : Fcv) : Option CollectResult :=
  match observe f with
  | some (.frame g)         => some (.frame g.toList)
  | some .timedOut          => some .timedOut
  | some .integrityFailure  => some .integrityFailure
  | none                    => none

/-- The document's algorithm, quoted at the head of spec/42_response_collector.md, with its own data: `left`, the ticks before the
deadline; `got`, the accumulated bytes; and per polling iteration what the transport offers and whether a tick passed.
"if the deadline has elapsed, stop and report TimedOut. Otherwise attempt a non-blocking read"; "append it to the
accumulation buffer"; at nine bytes compare the checksum. None: the sequence ended with the collection in progress. -/
def documentCollect : Nat → List Byte → List (Option Byte × Bool) → Option CollectResult
  | _, _, [] => none
  | 0, _, _ :: _ => some .timedOut
  | left + 1, got, (none, tick) :: rest => documentCollect (if tick then left else left + 1) got rest
  | left + 1, got, (some b, tick) :: rest =>
    if got.length = 8 then
      if wf (got ++ [b]) then some (.frame (got ++ [b])) else some .integrityFailure
    else documentCollect (if tick then left else left + 1) (got ++ [b]) rest

/-- What the document's polling loop sees of an input word. -/
def pollView (w : BitVec 28) : Option Byte × Bool := (rxOf (unpackIn w), (unpackIn w).tick)

/-- What a session's wait returns to its caller for a result of the collection (spec/43_sensor_session.md R163, R164). -/
def returned (op : Waiter) : CollectResult → Ret
  | .frame bytes =>
    match op with
    | .collect => .frame (Vector.ofFn fun i => bytes.getD i.val 0)
    | .readConcentration => .ppm (bytes.getD 2 0 ++ bytes.getD 3 0)
  | .timedOut => .error .timedOut
  | .integrityFailure => .error .integrityFailure

/-- The session's state when its wait has returned (spec/43_sensor_session.md R168). -/
def sessionAfter : CollectResult → Session
  | .frame _ => .done
  | .timedOut => .failed .timedOut
  | .integrityFailure => .failed .integrityFailure

end Sys2Proof.Machine
end

