-- ==== Sys2Proof/Certificates/Slice0/Obligations.lean ====
section
/-! DEFINITION. The statements about the machine, for the provers. Where a statement speaks of `ret`, `lines` or `clk`, fields of the model's own, its docstring says so. -/

open Sys2Proof Sys2Proof.Machine

/-! ## Fetching, decoding, encoding -/

/-- A step runs the instruction its line decodes to, at the state with the line removed; a line that decodes to nothing is
refused (which lines those are is the model's choice, log 12); when the script has run out the line is the free input word of the
cycle (log 1). -/
def Obligations.StepRunsTheDecodedLine : Prop :=
  (∀ (s : State) (l : Line) (ls : List Line) (i : Instr),
    s.lines = l :: ls → decodeLine s.params l = .ok i → step s = exec i { s with lines := ls }) ∧
  (∀ (s : State) (l : Line) (ls : List Line) (e : DecodeError),
    s.lines = l :: ls → decodeLine s.params l = .error e → step s = .refused .undecodable) ∧
  (∀ s : State, s.lines = [] → step s = exec (decodeIn (Config.freeInput s.clk)) s)

/-- Words written out in the spec decode to the instructions they stand for: the examples of R89, vectors V19, V27, V38, and the whole
frames of R84. Which row names a word of several channels is the model's choice (log 10). -/
def Obligations.WordsOfTheSpecDecode : Prop :=
  decodeTableWord 28 0x8000000 = some .rst ∧
  decodeTableWord 28 0x40FA000 = some (.arm 1000 none false) ∧
  decodeTableWord 28 0x4001F55 = some (.arm 7 (some 0xAA) true) ∧
  decodeTableWord 28 0x00003FE = some (.rxb 0xFF false) ∧
  decodeTableWord 28 0x00002F3 = some (.rxb 0x79 true) ∧
  decodeTableWord 28 0x0000297 = some (.rxb 0x4B true) ∧
  decodeTableWord 28 0x0000001 = some .tick ∧
  decodeTableWord 28 0x0000000 = some .rxn ∧
  decodeTableWord 28 0xC001400 = some .rst ∧
  decodeTableWord 72 0xFF0186000000000079 = some .fReadConcentration ∧
  decodeTableWord 72 0xFF0187000000000078 = some (.fCalibrateZeroPoint #v[0, 0, 0, 0, 0]) ∧
  decodeTableWord 72 0xFF018807D0000000A0 = some (.fCalibrateSpanPoint #v[0x07, 0xD0, 0, 0, 0]) ∧
  decodeTableWord 72 0xFF0179A000000000E6 = some (.fSetAutoCalibration true) ∧
  decodeTableWord 72 0xFF0179000000000086 = some (.fSetAutoCalibration false) ∧
  decodeTableWord 72 0xFF0199000000000066 = some (.fSetDetectionRange #v[0, 0, 0, 0, 0])

/-- Encoding any well-formed instruction and decoding the line gives it back, with every operand, for every set of five distinct
command codes; NOP gives RXN, whose word it names (R128). -/
def Obligations.EncodeThenDecode : Prop :=
  ∀ (p : Params) (i : Instr), p.wf = true → i.wf = true →
    ∃ l : Line, encode p i = some l ∧ l.wf = true ∧ decodeLine p l = .ok (canonical i)

/-- Every word lies in the opcode-table row of the instruction it decodes to, and every word with `rst = 0` matches exactly one of the rows
RXB and RXN (R83). -/
def Obligations.WordLiesInItsRow : Prop :=
  (∀ w : BitVec 28, ∃ m k, inRow (decodeIn w) = some (m, k) ∧ w &&& k = m) ∧
  (∀ w : BitVec 28, w.getLsbD 27 = false →
    (w &&& 0x8000200 = 0x0000200 ∧ w &&& 0x8000200 ≠ 0x0000000) ∨
    (w &&& 0x8000200 ≠ 0x0000200 ∧ w &&& 0x8000200 = 0x0000000))

/-- Two words decode alike exactly when they agree on the bits R73 says are read: no read bit is dropped, no unread bit
matters (R73, R86, U10). -/
def Obligations.DecodingKeepsExactlyTheReadBits : Prop :=
  ∀ w v : BitVec 28, decodeIn w = decodeIn v ↔
    (unpackIn w).rst = (unpackIn v).rst ∧
    ((unpackIn w).rst = false →
      (unpackIn w).arm = (unpackIn v).arm ∧
      ((unpackIn w).arm = true → (unpackIn w).dur = (unpackIn v).dur) ∧
      (unpackIn w).rxv = (unpackIn v).rxv ∧
      ((unpackIn w).rxv = true → (unpackIn w).rxd = (unpackIn v).rxd) ∧
      (unpackIn w).tick = (unpackIn v).tick)

/-- Packing and unpacking an IN word are inverse, and the OR of the mnemonics' words of R89 is the packed word of their
channels. -/
def Obligations.InWordFieldsRoundTrip : Prop :=
  (∀ p : InPorts, unpackIn (packIn p) = p) ∧
  (∀ w : BitVec 28, packIn (unpackIn w) = w) ∧
  (∀ c r t, assembleWord false c r t = packIn (channels c r t)) ∧
  (∀ c r t, (unpackIn (assembleWord true c r t)).rst = true)

/-- A frame and its 72-bit vector determine each other (R72), and every field of the OUT word stands at its bits (R74). -/
def Obligations.FrameAndOutVectors : Prop :=
  (∀ f : Frame, bitsFrame (frameBits f) = f) ∧
  (∀ w : BitVec 72, frameBits (bitsFrame w) = w) ∧
  (∀ o : OutPorts,
    (packOut o).extractLsb' 10 72 = o.frame ∧ (packOut o).extractLsb' 7 3 = o.st ∧
    (packOut o).extractLsb' 4 3 = o.err ∧ (packOut o).getLsbD 3 = o.busy ∧
    (packOut o).getLsbD 2 = o.frameValid ∧ (packOut o).getLsbD 1 = o.rxTake ∧ (packOut o).getLsbD 0 = o.faultBusy)

/-! ## Checksum and Frame Builder -/

/-- R100: CHK answers the byte `255 - (sum mod 256)` and writes nothing (its result is in `ret`, the model's place for a returned value,
log 14). -/
def Obligations.ChecksumIs255LessTheSum : Prop :=
  ∀ (l : Payload) (s : State), ∃ b : Byte,
    exec (.chk l) s = .next { s with ret := .byte b } ∧
    b.toNat = 255 - (l[0].toNat + l[1].toNat + l[2].toNat + l[3].toNat + l[4].toNat + l[5].toNat + l[6].toNat
      + l[7].toNat) % 256

/-- R101, (a) to (e). -/
def Obligations.ChecksumEquivalentForms : Prop :=
  ∀ l : Payload,
    chk l = ~~~(l[0] + l[1] + l[2] + l[3] + l[4] + l[5] + l[6] + l[7]) ∧
    chk l = (0xFF : Byte) - l[0] - l[1] - l[2] - l[3] - l[4] - l[5] - l[6] - l[7] ∧
    (∀ c : Byte, c = chk l ↔ l[0] + l[1] + l[2] + l[3] + l[4] + l[5] + l[6] + l[7] + c = 0xFF) ∧
    (∀ m : Payload, m.toList.Perm l.toList → chk m = chk l) ∧
    (∀ n : Nat, 8 ≤ n → (chk l).toNat = 255 - sumBytes l % 2 ^ n % 256) ∧
    sumBytes l ≤ 2040 ∧ sumBytes #v[0xFF, 0xFF, 0xFF, 0xFF, 0xFF, 0xFF, 0xFF, 0xFF] = 2040

/-- R104: the forbidden formula differs from CHK on every input, by one modulo 256, and gives 0x7A where the document's first vector
requires 0x79. -/
def Obligations.ForbiddenChecksumNeverAgrees : Prop :=
  (∀ l : Payload,
    (chkAlt l).toNat = (256 - sumBytes l % 256) % 256 ∧ chkAlt l = chk l + 1 ∧ chkAlt l ≠ chk l) ∧
  chkAlt #v[0xFF, 0x01, 0x86, 0, 0, 0, 0, 0] = 0x7A ∧ chk #v[0xFF, 0x01, 0x86, 0, 0, 0, 0, 0] = 0x79

/-- R102: `wf` holds of exactly the nine-byte sequences whose last byte is the checksum of the first eight, whatever the
other bytes are. -/
def Obligations.WellFormedIsLengthAndChecksum : Prop :=
  ∀ F : List Byte, wf F = true ↔ ∃ (l : Payload) (c : Byte), F = l.toList ++ [c] ∧ c = chk l

/-- R105: changing exactly one byte of a well-formed frame is detected, and any permutation of its nine bytes is not. -/
def Obligations.WhatTheChecksumDetects : Prop :=
  (∀ (F : Frame) (i : Fin 9) (v : Byte), wf F.toList = true → v ≠ F[i.val] → wf (F.set i.val v).toList = false) ∧
  (∀ F G : Frame, wf F.toList = true → G.toList.Perm F.toList → wf G.toList = true)

/-- R110: BUILD places the constants, the code and the arguments, appends CHK, and overwrites the scratch buffer; the checksum is that of
code and arguments alone. Nothing else changes (`ret` is the model's place for the returned frame, log 14; that the call
runs also while an operation awaits its response, log 23). -/
def Obligations.BuildPlacesEveryByte : Prop :=
  ∀ (c : Byte) (a : Args) (s : State), ∃ F : Frame,
    exec (.build c a) s = .next { s with scratch := F, ret := .frame F } ∧
    F[0] = 0xFF ∧ F[1] = 0x01 ∧ F[2] = c ∧
    F[3] = a[0] ∧ F[4] = a[1] ∧ F[5] = a[2] ∧ F[6] = a[3] ∧ F[7] = a[4] ∧
    F[8] = chk #v[F[0], F[1], F[2], F[3], F[4], F[5], F[6], F[7]] ∧
    F[8].toNat = 255 - (c.toNat + a[0].toNat + a[1].toNat + a[2].toNat + a[3].toNat + a[4].toNat) % 256

/-- R111: a built frame is well formed, and looped back into an armed collector with no byte before it, in words with any gaps and
fewer ticks than are left, it ends in DONE and stands on the output. -/
def Obligations.BuiltFrameLoopsBack : Prop :=
  (∀ (c : Byte) (a : Args), wf (buildFrame c a).toList = true) ∧
  (∀ (c : Byte) (a : Args) (ws : List (BitVec 28)) (s : State), faulted s = false → s.fcv.st = .await → s.fcv.fill = 0 →
    (∀ w ∈ ws, envWord w = true) → ws.filterMap (fun w => rxOf (unpackIn w)) = (buildFrame c a).toList →
    tickCount ws < s.fcv.cnt.toNat →
    ∃ t : State, runWords ws s = .next t ∧ t.fcv.st = .done ∧ frameOut t.fcv = frameBits (buildFrame c a))

/-- R112 and R115: the frames of ReadConcentration and SetAutoCalibration, for any codes and as 72-bit values with the default codes;
the block and the transmit stream are untouched. That the frame stands in `ret`, and that the call runs also while
an operation awaits its response, are the model's choice (log 14, 23). -/
def Obligations.SessionFramesAreBuilt : Prop :=
  (∀ s : State, exec .fReadConcentration s =
    .next { s with
      scratch := buildFrame s.params.codeReadConcentration #v[0, 0, 0, 0, 0],
      ret := .frame (buildFrame s.params.codeReadConcentration #v[0, 0, 0, 0, 0]) }) ∧
  (∀ (e : Bool) (s : State), exec (.fSetAutoCalibration e) s =
    .next { s with
      scratch := buildFrame s.params.codeSetAutoCalibration #v[if e then 0xA0 else 0x00, 0, 0, 0, 0],
      ret := .frame (buildFrame s.params.codeSetAutoCalibration #v[if e then 0xA0 else 0x00, 0, 0, 0, 0]) }) ∧
  (∀ c : Byte,
    (buildFrame c #v[0xA0, 0, 0, 0, 0])[8].toNat = 255 - (c.toNat + 0xA0) % 256 ∧
    (buildFrame c #v[0, 0, 0, 0, 0])[8].toNat = 255 - c.toNat) ∧
  frameBits (buildFrame 0x86 #v[0, 0, 0, 0, 0]) = 0xFF0186000000000079 ∧
  frameBits (buildFrame 0x79 #v[0xA0, 0, 0, 0, 0]) = 0xFF0179A000000000E6 ∧
  frameBits (buildFrame 0x79 #v[0, 0, 0, 0, 0]) = 0xFF0179000000000086

/-- R113, R114 and R116: the three commands without an operation are built with whatever arguments are given, and nothing is sent; with the
spec's default codes the document's vectors come out. That the frame stands in `ret`, and that the call runs also
while an operation awaits its response, are the model's choice (log 14, 23). -/
def Obligations.UnwiredFramesAreBuilt : Prop :=
  (∀ (a : Args) (s : State),
    exec (.fCalibrateZeroPoint a) s =
      .next { s with
        scratch := buildFrame s.params.codeCalibrateZeroPoint a,
        ret := .frame (buildFrame s.params.codeCalibrateZeroPoint a) } ∧
    exec (.fCalibrateSpanPoint a) s =
      .next { s with
        scratch := buildFrame s.params.codeCalibrateSpanPoint a,
        ret := .frame (buildFrame s.params.codeCalibrateSpanPoint a) } ∧
    exec (.fSetDetectionRange a) s =
      .next { s with
        scratch := buildFrame s.params.codeSetDetectionRange a,
        ret := .frame (buildFrame s.params.codeSetDetectionRange a) }) ∧
  frameBits (buildFrame 0x87 #v[0, 0, 0, 0, 0]) = 0xFF0187000000000078 ∧
  frameBits (buildFrame 0x88 #v[0x07, 0xD0, 0, 0, 0]) = 0xFF018807D0000000A0 ∧
  frameBits (buildFrame 0x99 #v[0, 0, 0, 0, 0]) = 0xFF0199000000000066

/-! ## The input-word operations -/

/-- R122: every word with bit 27 set is RST, from every state it completes, clears `st`, `fill`, `cnt` and `fault_busy`, keeps `buf`,
takes no byte, and the flags become 0. -/
def Obligations.ResetClearsAllButTheBuffer : Prop :=
  ∀ (w : BitVec 28) (s : State), w.getLsbD 27 = true →
    decodeIn w = .rst ∧ rxTake s.fcv (unpackIn w) = false ∧
    ∃ t : State, exec .rst s = .next t ∧
      t.fcv = { s.fcv with st := .idle, fill := 0, cnt := 0, faultBusy := false } ∧
      busy t.fcv = false ∧ frameValid t.fcv = false ∧ errOut t.fcv = 0

/-- R123: an accepted ARM loads `cnt` and clears `fill`, keeps `buf` and `fault_busy`, acts on no other channel of its word, takes no byte, and
sets the flags; after `ARM 0` the next word without a reset is a TIMEOUT. -/
def Obligations.ArmAcceptedOutsideAwait : Prop :=
  ∀ (d : BitVec 16) (rx : Option Byte) (tick : Bool) (s : State), s.fcv.st ≠ .await →
    rxTake s.fcv (channels (some d) rx tick) = false ∧
    ∃ t : State, exec (.arm d rx tick) s = .next t ∧
      t.fcv = { s.fcv with st := .await, fill := 0, cnt := d } ∧
      busy t.fcv = true ∧ frameValid t.fcv = false ∧ errOut t.fcv = 0 ∧ frameOut t.fcv = 0 ∧
      (d = 0 → ∀ w : BitVec 28, w.getLsbD 27 = false →
        ∃ u : State, exec (decodeIn w) t = .next u ∧ u.fcv.st = .failedTimedOut)

/-- R124: in AWAIT the rest of the word acts exactly as if `arm` were 0, and `fault_busy` is set, and stays set over every later word
but a reset; `err` is what the rest of the word gives. -/
def Obligations.ArmRefusedInAwait : Prop :=
  ∀ (d : BitVec 16) (rx : Option Byte) (tick : Bool) (s : State), s.fcv.st = .await → s.fcv.fill ≤ 8 →
    ∃ t u : State, exec (decodeIn (packIn (channels none rx tick))) s = .next u ∧
      exec (.arm d rx tick) s = .next t ∧
      t.fcv = { u.fcv with faultBusy := true } ∧ errOut t.fcv = errOut u.fcv ∧
      ∀ (w : BitVec 28) (v : State), w.getLsbD 27 = false → exec (decodeIn w) t = .next v → v.fcv.faultBusy = true

/-- R125: in every state a word's tick takes `cnt` down by one, stopping at 0, unless the word is an accepted ARM, which loads
it; no word without a tick changes it otherwise. -/
def Obligations.TickCountsDownInEveryState : Prop :=
  ∀ (w : BitVec 28) (s t : State), (unpackIn w).rst = false → exec (decodeIn w) s = .next t →
    ((unpackIn w).arm = true → s.fcv.st ≠ .await → t.fcv.cnt = (unpackIn w).dur) ∧
    (¬((unpackIn w).arm = true ∧ s.fcv.st ≠ .await) →
      ((unpackIn w).tick = true → s.fcv.cnt ≠ 0#16 → t.fcv.cnt = s.fcv.cnt - 1) ∧
      ((unpackIn w).tick = true → s.fcv.cnt = 1#16 → expired t.fcv = true) ∧
      (s.fcv.cnt = 0#16 → t.fcv.cnt = 0#16) ∧
      ((unpackIn w).tick = false → t.fcv.cnt = s.fcv.cnt))

/-- The word TICK alone completes in every state (R125, R127, R129): the poll finds nothing or the deadline, and the tick
counts. -/
def Obligations.TickAloneCompletes : Prop :=
  ∀ s : State, ∃ t : State, exec .tick s = .next t ∧
    t.fcv =
      if s.fcv.cnt = 0#16 then
        if s.fcv.st = .await then { s.fcv with st := .failedTimedOut, fill := 0 } else s.fcv
      else { s.fcv with cnt := s.fcv.cnt - 1 }

/-- R127 and R128: RXN, and NOP which is its word 0x0000000, complete in every state: TIMEOUT in AWAIT with `cnt = 0`, else no
change; no byte is taken. -/
def Obligations.NothingOfferedNothingTaken : Prop :=
  decodeIn 0x0000000 = .rxn ∧
  ∀ s : State, exec .nop s = exec .rxn s ∧ rxTake s.fcv (unpackIn 0x0000000) = false ∧
    ∃ t : State, exec .rxn s = .next t ∧
      t.fcv =
        if s.fcv.st = .await ∧ s.fcv.cnt = 0#16 then { s.fcv with st := .failedTimedOut, fill := 0 } else s.fcv

/-- R126, by state: APPEND, VALIDATE, TIMEOUT with the byte left, or not taken; in an accepted ARM word the byte changes nothing; the
tick of the word counts beside it (R138). -/
def Obligations.OfferedByteByState : Prop :=
  ∀ (b : Byte) (tick : Bool) (s : State),
    (s.fcv.st = .await → s.fcv.cnt ≠ 0#16 → s.fcv.fill ≤ 7 →
      rxTake s.fcv (channels none (some b) tick) = true ∧
      ∃ t : State, exec (.rxb b tick) s = .next t ∧
        t.fcv = { s.fcv with
          buf := s.fcv.buf.setIfInBounds s.fcv.fill.val b, fill := s.fcv.fill + 1,
          cnt := if tick then s.fcv.cnt - 1 else s.fcv.cnt }) ∧
    (s.fcv.st = .await → s.fcv.cnt ≠ 0#16 → s.fcv.fill = 8 →
      rxTake s.fcv (channels none (some b) tick) = true ∧
      ∃ t : State, exec (.rxb b tick) s = .next t ∧
        t.fcv = { s.fcv with
          buf := s.fcv.buf.set 8 b, fill := 9, cnt := if tick then s.fcv.cnt - 1 else s.fcv.cnt,
          st := if b = chk (payload s.fcv.buf) then .done else .failedIntegrity }) ∧
    (s.fcv.st = .await → s.fcv.cnt = 0#16 →
      rxTake s.fcv (channels none (some b) tick) = false ∧
      ∃ t : State, exec (.rxb b tick) s = .next t ∧
        t.fcv = { s.fcv with st := .failedTimedOut, fill := 0 }) ∧
    (s.fcv.st ≠ .await →
      rxTake s.fcv (channels none (some b) tick) = false ∧
      ∃ t : State, exec (.rxb b tick) s = .next t ∧
        t.fcv = { s.fcv with cnt := if tick ∧ s.fcv.cnt ≠ 0#16 then s.fcv.cnt - 1 else s.fcv.cnt }) ∧
    (s.fcv.st ≠ .await → ∀ d : BitVec 16,
      rxTake s.fcv (channels (some d) (some b) tick) = false ∧
      ∃ t u : State, exec (.arm d (some b) tick) s = .next t ∧ exec (.arm d none tick) s = .next u ∧ t.fcv = u.fcv)

/-! ## The internal transitions -/

/-- R129: every word with `rst = 0` in AWAIT with `cnt = 0` is a TIMEOUT: `st` and `fill` are written, the offered byte is left, `busy`
becomes 0 and `err` 2; the transition as an instruction is the same step. -/
def Obligations.TimeoutWinsOverAnyByte : Prop :=
  ∀ (w : BitVec 28) (s : State), w.getLsbD 27 = false → s.fcv.st = .await → s.fcv.cnt = 0#16 →
    rxTake s.fcv (unpackIn w) = false ∧
    exec .timeout s = exec .nop s ∧
    (∃ t : State, exec .timeout s = .next t ∧ t.fcv = { s.fcv with st := .failedTimedOut, fill := 0 }) ∧
    ∃ t : State, exec (decodeIn w) s = .next t ∧
      t.fcv.st = .failedTimedOut ∧ t.fcv.fill = 0 ∧ t.fcv.buf = s.fcv.buf ∧ t.fcv.cnt = s.fcv.cnt ∧
      busy t.fcv = false ∧ errOut t.fcv = 2

/-- R130: APPEND stores the byte at offset `fill`, which it then advances to at most 8; no other byte of the buffer and no other register
changes; it is the step of the word RXB b. -/
def Obligations.AppendStoresAtFill : Prop :=
  ∀ (b : Byte) (s : State), s.fcv.st = .await → s.fcv.cnt ≠ 0#16 → s.fcv.fill ≤ 7 →
    ∃ t : State, exec (.append b) s = .next t ∧ exec (.rxb b false) s = .next t ∧
      rxTake s.fcv (channels none (some b) false) = true ∧
      (∀ i : Fin 9, i.val = s.fcv.fill.val → t.fcv.buf[i.val] = b) ∧
      (∀ i : Fin 9, i.val ≠ s.fcv.fill.val → t.fcv.buf[i.val] = s.fcv.buf[i.val]) ∧
      t.fcv.fill.val = s.fcv.fill.val + 1 ∧ t.fcv.fill ≤ 8 ∧
      t.fcv.st = .await ∧ t.fcv.cnt = s.fcv.cnt ∧ t.fcv.faultBusy = s.fcv.faultBusy

/-- R131: VALIDATE stores the ninth byte and, in the same step, ends in DONE when it is the checksum of the first eight and in
FAILED_INTEGRITY when it is not; no other byte of the buffer changes; it is the step of the word RXB b, and a tick in the word
does not turn the result. -/
def Obligations.ValidateJudgesTheNinthByte : Prop :=
  ∀ (b : Byte) (s : State), s.fcv.st = .await → s.fcv.cnt ≠ 0#16 → s.fcv.fill = 8 →
    ∃ t : State, exec (.validate b) s = .next t ∧ exec (.rxb b false) s = .next t ∧
      rxTake s.fcv (channels none (some b) false) = true ∧
      t.fcv.buf[8] = b ∧ (∀ i : Fin 9, i.val ≠ 8 → t.fcv.buf[i.val] = s.fcv.buf[i.val]) ∧
      t.fcv.fill = 9 ∧ t.fcv.cnt = s.fcv.cnt ∧ t.fcv.faultBusy = s.fcv.faultBusy ∧
      (b = chk (payload s.fcv.buf) →
        t.fcv.st = .done ∧ frameValid t.fcv = true ∧ errOut t.fcv = 0) ∧
      (b ≠ chk (payload s.fcv.buf) →
        t.fcv.st = .failedIntegrity ∧ frameValid t.fcv = false ∧ errOut t.fcv = 3) ∧
      (∃ u : State, exec (.rxb b true) s = .next u ∧ u.fcv.st = t.fcv.st)

/-- THE MODEL'S CHOICE (log 11): where its condition fails an internal transition is not taken and nothing at all
changes. -/
def Obligations.TransitionNotTakenChangesNothing : Prop :=
  ∀ (b : Byte) (s : State),
    (¬(s.fcv.st = .await ∧ s.fcv.cnt = 0#16) → exec .timeout s = .next s) ∧
    (¬(s.fcv.st = .await ∧ s.fcv.cnt ≠ 0#16 ∧ s.fcv.fill ≤ 7) → exec (.append b) s = .next s) ∧
    (¬(s.fcv.st = .await ∧ s.fcv.cnt ≠ 0#16 ∧ s.fcv.fill = 8) → exec (.validate b) s = .next s)

/-! ## The whole step of the block -/

/-- R120 and R132: every word completes, and each register takes the value its column of the state-transfer table gives. The
premise is R26(b), which every step keeps (StepKeepsTheInvariant). -/
def Obligations.EveryWordFollowsTheTransferTable : Prop :=
  ∀ (w : BitVec 28) (s : State), (s.fcv.st = .await → s.fcv.fill ≤ 8) →
    ∃ t : State, exec (decodeIn w) s = .next t ∧
      t.fcv.st = nextSt (unpackIn w) s.fcv ∧
      t.fcv.fill.val = nextFill (unpackIn w) s.fcv ∧
      t.fcv.cnt.toNat = nextCnt (unpackIn w) s.fcv ∧
      (∀ i : Fin 9, t.fcv.buf[i.val] = nextBuf (unpackIn w) s.fcv i) ∧
      t.fcv.faultBusy = nextFaultBusy (unpackIn w) s.fcv

/-- What an input word leaves unchanged outside the block: the transmit stream, the scratch buffer, the parameters and the rest of the script;
the session and the returned value change only where an operation waits and the block is no longer busy after the step (that with no
operation waiting they stay, over a reset too, is the model's choice, log 25). -/
def Obligations.InputWordsLeaveTheHostAlone : Prop :=
  ∀ (w : BitVec 28) (s t : State), exec (decodeIn w) s = .next t →
    t.tx = s.tx ∧ t.scratch = s.scratch ∧ t.params = s.params ∧ t.lines = s.lines ∧
    (waiting s = false ∨ t.fcv.st = .await → t.session = s.session ∧ t.ret = s.ret)

/-- The model's fault for an offset that does not exist (log 6): raised by an input word exactly when a byte would be taken with
`fill = 9`, and by no other state or word. -/
def Obligations.BufferFaultOnlyAtOffsetNine : Prop :=
  ∀ (w : BitVec 28) (s : State),
    (exec (decodeIn w) s = .fault .bufferOffset ↔ rxTake s.fcv (unpackIn w) = true ∧ s.fcv.fill = 9) ∧
    (∀ r, exec (decodeIn w) s ≠ .refused r)

/-- R25: `fault_busy` is set by a word with `arm = 1` in AWAIT, cleared only by a word with `rst = 1`, and otherwise kept. -/
def Obligations.FaultBusyIsSticky : Prop :=
  ∀ (w : BitVec 28) (s t : State), exec (decodeIn w) s = .next t →
    ((unpackIn w).rst = true → t.fcv.faultBusy = false) ∧
    ((unpackIn w).rst = false → (unpackIn w).arm = true → s.fcv.st = .await → t.fcv.faultBusy = true) ∧
    ((unpackIn w).rst = false → ¬((unpackIn w).arm = true ∧ s.fcv.st = .await) →
      t.fcv.faultBusy = s.fcv.faultBusy)

/-- R200: `fault_busy` changes nothing of what the machine does: from states that differ in it alone, every instruction, any input words and
any run that completes lead to states that differ in it alone, the whole states compared. -/
def Obligations.FaultBusyChangesNothingElse : Prop :=
  (∀ (i : Instr) (b : Bool) (s t : State), exec i s = .next t →
    ∃ u : State, exec i (withFaultBusy b s) = .next u ∧ t = withFaultBusy t.fcv.faultBusy u) ∧
  (∀ (ws : List (BitVec 28)) (b : Bool) (s t : State), runWords ws s = .next t →
    ∃ u : State, runWords ws (withFaultBusy b s) = .next u ∧ t = withFaultBusy t.fcv.faultBusy u) ∧
  (∀ (n : Nat) (b : Bool) (s t : State), runSteps n s = .next t →
    ∃ u : State, runSteps n (withFaultBusy b s) = .next u ∧ t = withFaultBusy t.fcv.faultBusy u)

/-- R200, D14: an unfaulted state becomes faulted exactly by a word that breaks the host's duty of R12(a); the words of the other agents, and
the writes of a host that does not arm, leave it unfaulted. -/
def Obligations.OnlyABrokenDutyFaultsARun : Prop :=
  (∀ (w : BitVec 28) (s t : State), faulted s = false → exec (decodeIn w) s = .next t →
    (faulted t = true ↔ dutyKept (unpackIn w) s.fcv = false)) ∧
  (∀ (ws : List (BitVec 28)) (s t : State), (∀ w ∈ ws, envWord w = true) → runWords ws s = .next t →
    faulted t = faulted s) ∧
  (∀ (i : Instr) (s t : State),
    ((∃ b w, i = .txb b w) ∨ (∃ f ws, i = .send f ws) ∨ (∃ e ws, i = .setAutoCalibration e ws) ∨ i = .setRange) →
    exec i s = .next t → faulted t = faulted s)

/-- R200, D14: taking a step that sets `fault_busy` as a fault. In an unfaulted state a word that keeps the duty is the machine's step, and
leaves it unfaulted; a word that breaks it faults; no step of a faulted run is relied on; and no other next state is ever
given. A COLLECT or READ_CONCENTRATION faults when a word of its wait breaks the duty, whatever follows, a reset included; over words of the
other agents it is the machine's step. A run over words that may be relied on is the machine's, and ends unfaulted. (That a wait takes the
script's words within the step is log 13.) -/
def Obligations.ReliedStepFaultsOnABrokenDuty : Prop :=
  (∀ s : State, faulted s = true → reliedStep s = .fault .hostDutyBroken) ∧
  (∀ (w : BitVec 28) (ls : List Line) (s : State), faulted s = false → (s.fcv.st = .await → s.fcv.fill ≤ 8) →
    s.lines = .word w :: ls →
    (dutyKept (unpackIn w) s.fcv = true →
      ∃ t : State, step s = .next t ∧ reliedStep s = .next t ∧ faulted t = false) ∧
    (dutyKept (unpackIn w) s.fcv = false → reliedStep s = .fault .hostDutyBroken)) ∧
  (∀ s t : State, reliedStep s = .next t → step s = .next t ∧ faulted s = false ∧ faulted t = false) ∧
  (∀ (d : BitVec 16) (c : EnvCycle) (i : Instr) (ws : List (BitVec 28)) (s : State),
    (i = .collect ⟨d, c⟩ ∨ d = Config.timeoutTicks ∧ ∃ during, i = .readConcentration ⟨⟨none, during⟩, c⟩) →
    faulted s = false → waiting s = false → s.fcv.st ≠ .await → (∀ v ∈ ws, envWord v = true) →
    (∀ (w : BitVec 28) (rest : List Line), documentCollect d.toNat [] (ws.map pollView) = none →
      (unpackIn w).rst = false → (unpackIn w).arm = true → s.lines = .call i :: (ws.map .word ++ .word w :: rest) →
      reliedStep s = .fault .hostDutyBroken) ∧
    (s.lines = .call i :: ws.map .word → reliedStep s = step s)) ∧
  (∀ (ws : List (BitVec 28)) (s t : State), faulted s = false → reliedWords ws s = .next t →
    runWords ws s = .next t ∧ faulted t = false)

/-- R29: `rx_take` is 1 in exactly the steps that consume a byte: there the byte is stored at the old `fill`, which advances;
elsewhere the buffer keeps every byte. -/
def Obligations.RxTakeMarksTheTakenByte : Prop :=
  ∀ (w : BitVec 28) (s t : State), exec (decodeIn w) s = .next t →
    (rxTake s.fcv (unpackIn w) = true ↔
      (unpackIn w).rst = false ∧ s.fcv.st = .await ∧ s.fcv.cnt ≠ 0#16 ∧ (unpackIn w).rxv = true) ∧
    (rxTake s.fcv (unpackIn w) = true →
      t.fcv.fill.val = s.fcv.fill.val + 1 ∧
      ∀ i : Fin 9, t.fcv.buf[i.val] = if i.val = s.fcv.fill.val then (unpackIn w).rxd else s.fcv.buf[i.val]) ∧
    (rxTake s.fcv (unpackIn w) = false → t.fcv.buf = s.fcv.buf)

/-- R63(f): in a terminal state no word without ARM or RST changes an output, whatever the receive and tick channels do; every such word
completes. -/
def Obligations.TerminalStateHolds : Prop :=
  ∀ (w : BitVec 28) (s : State), terminal s.fcv = true → envWord w = true →
    ∃ t : State, exec (decodeIn w) s = .next t ∧ (∀ p : InPorts, out t.fcv p = out s.fcv p) ∧ terminal t.fcv = true

/-! ## Outputs and codes -/

/-- R75 and R76: the codes of the states and error kinds, none above 4, and what `err` shows: 2 exactly when `st = 3`, 3 exactly when
`st = 4`, otherwise 0. -/
def Obligations.StateAndErrorCodes : Prop :=
  stCode .idle = 0 ∧ stCode .await = 1 ∧ stCode .done = 2 ∧ stCode .failedTimedOut = 3 ∧
  stCode .failedIntegrity = 4 ∧
  errorCode .writeFailed = 1 ∧ errorCode .timedOut = 2 ∧ errorCode .integrityFailure = 3 ∧
  errorCode .invalidArgument = 4 ∧
  (∀ x : St, (stCode x).toNat ≤ 4) ∧ (∀ e : ErrorKind, (errorCode e).toNat ≤ 4) ∧
  ∀ f : Fcv, (errOut f = 2 ↔ stCode f.st = 3) ∧ (errOut f = 3 ↔ stCode f.st = 4) ∧
    (errOut f = 0 ↔ stCode f.st ≠ 3 ∧ stCode f.st ≠ 4)

/-- R32: while `st = DONE` the output shows the nine bytes, offset 0 in bits 71:64 down to offset 8 in bits 7:0; in every other
state it is all zeros. -/
def Obligations.FrameShownOnlyInDone : Prop :=
  ∀ f : Fcv,
    (f.st = .done → ∀ i : Fin 9, (frameOut f).extractLsb' (64 - 8 * i.val) 8 = f.buf[i.val]) ∧
    (f.st ≠ .done → frameOut f = 0)

/-- R221, D11: states in FAILED_TIMEDOUT show the same outputs whatever bytes were taken and whatever `cnt` holds: the host cannot tell
silence from truncation. -/
def Obligations.TruncationLooksLikeSilence : Prop :=
  ∀ (f g : Fcv) (p : InPorts), f.st = .failedTimedOut → g.st = .failedTimedOut → f.faultBusy = g.faultBusy →
    out f p = out g p ∧ rxTake f p = false ∧ observe f = some .timedOut

/-- R36: the registers and the outputs after a step with `rst = 1`, and in the reset state (`buf` is left unspecified). -/
def Obligations.ResetStateAndOutputs : Prop :=
  (∀ s : State, ∃ t : State, exec .rst s = .next t ∧ t.fcv.st = .idle ∧ t.fcv.fill = 0 ∧ t.fcv.cnt = 0 ∧
    t.fcv.faultBusy = false ∧ ∀ p : InPorts, packOut (out t.fcv p) = 0) ∧
  State.reset.fcv.st = .idle ∧ State.reset.fcv.fill = 0 ∧ State.reset.fcv.cnt = 0 ∧
  State.reset.fcv.faultBusy = false ∧
  ∀ p : InPorts, packOut (out State.reset.fcv p) = 0

/-! ## Invariants -/

/-- R26: every step, over every line the machine can run and every free input word, keeps the invariants of the reachable states; with
them, that an operation waits only while the block is busy, and that `InvalidArgument` is never produced (R185). -/
def Obligations.StepKeepsTheInvariant : Prop :=
  ∀ s t : State, Inv s → step s = .next t → Inv t

/-- The invariant holds at reset (with the model's reset values of log 2 and 3). -/
def Obligations.ResetMeetsTheInvariant : Prop := Inv State.reset

/-- R51: under the invariant no step of any line asks for an offset above 8. -/
def Obligations.InvariantExcludesTheBufferFault : Prop :=
  ∀ s : State, Inv s → step s ≠ .fault .bufferOffset

/-- R53, R63(d): bytes already sent are never recalled, and only the host's writes append; the parameters never change. -/
def Obligations.TransmitStreamOnlyGrows : Prop :=
  (∀ s t : State, step s = .next t → (∃ sent : List Byte, t.tx = s.tx ++ sent) ∧ t.params = s.params) ∧
  (∀ (i : Instr) (s t : State), exec i s = .next t → t.tx ≠ s.tx →
    (∃ b cs, i = .txb b ⟨true, cs⟩) ∨ (∃ f ws, i = .send f ws) ∨ (∃ x, i = .readConcentration x) ∨
      (∃ e ws, i = .setAutoCalibration e ws))

/-! ## Collections -/

/-- The block refines the document's algorithm (R11, R120, R133, R134, R135, R138): armed with `d` from any state that is not AWAIT, over any words of
the other agents, it completes and shows exactly the result the polling loop over a byte list gives, or none while that is still
polling. -/
def Obligations.CollectionRefinesTheDocument : Prop :=
  ∀ (d : BitVec 16) (ws : List (BitVec 28)) (s : State), faulted s = false → s.fcv.st ≠ .await →
    (∀ w ∈ ws, envWord w = true) →
    ∃ t : State, runWords (assembleWord false (some d) none false :: ws) s = .next t ∧
      resultOf t.fcv = documentCollect d.toNat [] (ws.map pollView)

/-- R135: while the collection is in progress `fill` is the number of bytes offered and taken, and the byte taken `k`-th is at
offset `k`. -/
def Obligations.BytesAreStoredInOrder : Prop :=
  ∀ (d : BitVec 16) (ws : List (BitVec 28)) (s t : State), faulted s = false → s.fcv.st ≠ .await →
    (∀ w ∈ ws, envWord w = true) →
    runWords (assembleWord false (some d) none false :: ws) s = .next t → t.fcv.st = .await →
    t.fcv.buf.toList.take t.fcv.fill.val = ws.filterMap (fun w => rxOf (unpackIn w)) ∧
    (ws.filterMap (fun w => rxOf (unpackIn w))).length = t.fcv.fill.val

/-- R136(a) and (b): a collection armed with `d` ends, whatever the other words hold, at or before the step after the `d`-th tick, unless the
host arms the block first, which is a fault (R200, D14) and which words without ARM do not do; with `d = 0` it ends at step 1, in
FAILED_TIMEDOUT. -/
def Obligations.CollectionEndsAfterItsTicks : Prop :=
  (∀ (d : BitVec 16) (ws : List (BitVec 28)) (w : BitVec 28) (s t : State), faulted s = false → s.fcv.st ≠ .await →
    exec (.arm d none false) s = .next t → d.toNat ≤ tickCount ws →
    ∃ k ≤ ws.length + 1,
      (∃ u : State, reliedWords ((ws ++ [w]).take k) t = .next u ∧ u.fcv.st ≠ .await) ∨
      ((∃ v ∈ ws ++ [w], (unpackIn v).arm = true) ∧ reliedWords ((ws ++ [w]).take k) t = .fault .hostDutyBroken)) ∧
  (∀ (w : BitVec 28) (s t : State), faulted s = false → s.fcv.st ≠ .await → exec (.arm 0 none false) s = .next t →
    envWord w = true → ∃ u : State, exec (decodeIn w) t = .next u ∧ u.fcv.st = .failedTimedOut)

/-- R137: what a collection shows depends only on `d` and the words after its ARM: from any two states that are not AWAIT and have
`fault_busy = 0`, after any words, resets and further collections included, the outputs are equal, or both runs have faulted on an ARM in
AWAIT (R200, D14), which no words without ARM do. -/
def Obligations.CollectionsAreIndependent : Prop :=
  ∀ (d : BitVec 16) (ws : List (BitVec 28)) (s₁ s₂ : State),
    s₁.fcv.st ≠ .await → s₂.fcv.st ≠ .await → s₁.fcv.faultBusy = false → s₂.fcv.faultBusy = false →
    (∃ t₁ t₂ : State,
      reliedWords (assembleWord false (some d) none false :: ws) s₁ = .next t₁ ∧
      reliedWords (assembleWord false (some d) none false :: ws) s₂ = .next t₂ ∧
      ∀ p : InPorts, out t₁.fcv p = out t₂.fcv p) ∨
    ((∃ w ∈ ws, (unpackIn w).arm = true) ∧
      reliedWords (assembleWord false (some d) none false :: ws) s₁ = .fault .hostDutyBroken ∧
      reliedWords (assembleWord false (some d) none false :: ws) s₂ = .fault .hostDutyBroken)

/-! ## The host's procedures -/

/-- What the cycles of a write do to a block that is not collecting: they count its timer down by their ticks, saturating, and change
nothing else, whatever bytes are offered (R125, R126, R162). -/
def Obligations.WritesLeaveAnIdleBlockAlone : Prop :=
  ∀ (cs : List EnvCycle) (f : Fcv), f.st ≠ .await →
    blockAfter cs f = { f with cnt := (blockAfter cs f).cnt } ∧
    (blockAfter cs f).cnt.toNat = f.cnt.toNat - cs.countP (·.tick)

/-- R161: a write appends its byte and returns Ok, or appends nothing and returns Err, as the transport chooses; while it blocks, for any
number of cycles, the block's words are what the other agents drive. The premises are R26(b) and R200's. (That the host drives no command
meanwhile is log 9, the outcome as an operand log 17, `ret` as the place of the result log 14, that a single write, and what the block does
meanwhile, leave the session as it is log 16 and 25.) -/
def Obligations.WriteByteIsTheTransportsChoice : Prop :=
  ∀ (b : Byte) (cs : List EnvCycle) (s : State), waiting s = false → faulted s = false →
    (s.fcv.st = .await → s.fcv.fill ≤ 8) →
    (∃ t : State, exec (.txb b ⟨true, cs⟩) s = .next t ∧
      t.tx = s.tx ++ [b] ∧ t.ret = .ok ∧ t.fcv = blockAfter cs s.fcv ∧ t.session = s.session ∧ t.scratch = s.scratch ∧
      t.lines = s.lines ∧ t.params = s.params) ∧
    (∃ t : State, exec (.txb b ⟨false, cs⟩) s = .next t ∧
      t.tx = s.tx ∧ t.ret = .err ∧ t.fcv = blockAfter cs s.fcv ∧ t.session = s.session ∧ t.scratch = s.scratch ∧
      t.lines = s.lines ∧ t.params = s.params)

/-- R162 (and R183): SEND writes the nine bytes in offset order and returns Ok, or stops at the first write the transport rejects: the
bytes before it have gone out, no later byte is sent, `WriteFailed` is returned; no ARM is driven, so the block is as after the cycles of
the writes that took place, collecting or not (WritesLeaveAnIdleBlockAlone). Log 9, 14, 17 are the model's part. -/
def Obligations.SendStopsAtTheFirstRejectedWrite : Prop :=
  ∀ (F : Frame) (during : Vector (List EnvCycle) 9) (s : State), waiting s = false → faulted s = false →
    (s.fcv.st = .await → s.fcv.fill ≤ 8) →
    (∃ t : State, exec (.send F ⟨none, during⟩) s = .next t ∧
      t.tx = s.tx ++ F.toList ∧ t.ret = .ok ∧ t.fcv = blockAfter (cyclesOf during 9) s.fcv ∧ t.scratch = s.scratch ∧
      t.lines = s.lines ∧ t.params = s.params) ∧
    (∀ i : Fin 9, ∃ t : State, exec (.send F ⟨some i, during⟩) s = .next t ∧
      t.tx = s.tx ++ F.toList.take i.val ∧ t.ret = .error .writeFailed ∧ t.session = .failed .writeFailed ∧
      t.fcv = blockAfter (cyclesOf during (i.val + 1)) s.fcv ∧ t.scratch = s.scratch ∧ t.lines = s.lines ∧
      t.params = s.params)

/-- R165: SET_AUTO_CALIBRATION builds its frame, sends it, and returns `()` without collecting, or `WriteFailed`; the block, collecting or
not, is as after the cycles of the writes (WritesLeaveAnIdleBlockAlone). Log 9, 14, 17 are the model's part. -/
def Obligations.SetAutoCalibrationNeverCollects : Prop :=
  ∀ (e : Bool) (during : Vector (List EnvCycle) 9) (s : State), waiting s = false → faulted s = false →
    (s.fcv.st = .await → s.fcv.fill ≤ 8) →
    let F := buildFrame s.params.codeSetAutoCalibration #v[if e then 0xA0 else 0x00, 0, 0, 0, 0]
    (∃ t : State, exec (.setAutoCalibration e ⟨none, during⟩) s = .next t ∧
      t.tx = s.tx ++ F.toList ∧ t.ret = .unit ∧ t.session = .done ∧ t.fcv = blockAfter (cyclesOf during 9) s.fcv ∧
      t.scratch = F ∧ t.lines = s.lines ∧ t.params = s.params) ∧
    (∀ i : Fin 9, ∃ t : State, exec (.setAutoCalibration e ⟨some i, during⟩) s = .next t ∧
      t.tx = s.tx ++ F.toList.take i.val ∧ t.ret = .error .writeFailed ∧ t.session = .failed .writeFailed ∧
      t.fcv = blockAfter (cyclesOf during (i.val + 1)) s.fcv ∧ t.scratch = F ∧ t.lines = s.lines ∧ t.params = s.params)

/-- R166: SET_RANGE returns `()` and leaves the transmit stream, FCV and everything else but the session unchanged; that the session is then
Done is the model's choice (log 16), `ret` log 14. -/
def Obligations.SetRangeIsANoOp : Prop :=
  ∀ s : State, waiting s = false → exec .setRange s = .next { s with session := .done, ret := .unit }

/-- R164, R183: when the transport rejects a write of READ_CONCENTRATION, `WriteFailed` is returned and no collection is started; the block,
collecting or not, is as after the cycles of the writes (WritesLeaveAnIdleBlockAlone), and the script is where it was. Log 9, 14, 17 are the
model's part. -/
def Obligations.ReadConcentrationWriteFailure : Prop :=
  ∀ (i : Fin 9) (during : Vector (List EnvCycle) 9) (c : EnvCycle) (s : State), waiting s = false → faulted s = false →
    (s.fcv.st = .await → s.fcv.fill ≤ 8) →
    ∃ t : State, exec (.readConcentration ⟨⟨some i, during⟩, c⟩) s = .next t ∧
      t.tx = s.tx ++ (buildFrame s.params.codeReadConcentration #v[0, 0, 0, 0, 0]).toList.take i.val ∧
      t.ret = .error .writeFailed ∧ t.session = .failed .writeFailed ∧
      t.fcv = blockAfter (cyclesOf during (i.val + 1)) s.fcv ∧ t.lines = s.lines ∧
      t.scratch = buildFrame s.params.codeReadConcentration #v[0, 0, 0, 0, 0] ∧ t.params = s.params

/-- R163 and R164 whole: over the words `ws` of the other agents that end the collection and no sooner, COLLECT d returns what the document's algorithm
gives, and READ_CONCENTRATION, its frame sent, the concentration or the error verbatim under the budget of 1000 ticks, whatever the other
agents drive during the writes and in the cycle of the ARM; the rest of the script is left. (That a call runs over the following words of the
script is the model's choice, log 13; `ret` is log 14.) -/
def Obligations.CollectReturnsTheDocumentsResult : Prop :=
  ∀ (ws : List (BitVec 28)) (rest : List Line) (r : CollectResult) (c : EnvCycle) (s : State),
    waiting s = false → faulted s = false → s.fcv.st ≠ .await → s.lines = ws.map .word ++ rest →
    (∀ w ∈ ws, envWord w = true) →
    (∀ d : BitVec 16, documentCollect d.toNat [] (ws.map pollView) = some r →
      (∀ k < ws.length, documentCollect d.toNat [] ((ws.take k).map pollView) = none) →
      ∃ t : State, exec (.collect ⟨d, c⟩) s = .next t ∧
        t.ret = returned .collect r ∧ t.session = sessionAfter r ∧ t.lines = rest ∧ t.tx = s.tx ∧
        resultOf t.fcv = some r ∧ faulted t = false ∧ t.scratch = s.scratch ∧ t.params = s.params) ∧
    (∀ during : Vector (List EnvCycle) 9, documentCollect 1000 [] (ws.map pollView) = some r →
      (∀ k < ws.length, documentCollect 1000 [] ((ws.take k).map pollView) = none) →
      ∃ t : State, exec (.readConcentration ⟨⟨none, during⟩, c⟩) s = .next t ∧
        t.ret = returned .readConcentration r ∧ t.session = sessionAfter r ∧ t.lines = rest ∧
        t.tx = s.tx ++ (buildFrame s.params.codeReadConcentration #v[0, 0, 0, 0, 0]).toList ∧
        resultOf t.fcv = some r ∧ faulted t = false ∧
        t.scratch = buildFrame s.params.codeReadConcentration #v[0, 0, 0, 0, 0] ∧ t.params = s.params)

/-- R163, R181, R220: against a transport that offers no byte, COLLECT d returns `TimedOut` one step after the d-th tick, with any words
without a tick before and between the ticks, and whatever that last step's word offers. (Log 13 is the model's part.) -/
def Obligations.SilenceTimesOutAfterTheLastTick : Prop :=
  ∀ (d : BitVec 16) (ws : List (BitVec 28)) (w : BitVec 28) (rest : List Line) (c : EnvCycle) (s : State),
    waiting s = false → faulted s = false → s.fcv.st ≠ .await → (∀ v ∈ ws, envWord v = true ∧ (unpackIn v).rxv = false) →
    tickCount ws = d.toNat → (∀ k < ws.length, tickCount (ws.take k) < d.toNat) → envWord w = true →
    s.lines = ws.map .word ++ .word w :: rest →
    ∃ t : State, exec (.collect ⟨d, c⟩) s = .next t ∧
      t.ret = .error .timedOut ∧ t.fcv.st = .failedTimedOut ∧ t.lines = rest ∧ t.fcv.buf = s.fcv.buf

/-- THE MODEL'S CHOICE: when the script runs out before the block is no longer busy, the call has not returned (log 13; R136(d): the host
waits), and the later word that ends the collection returns its result (R163); begun in AWAIT with no operation waiting, COLLECT is the
refused ARM of its word (R124), whose other channels act (log 24). -/
def Obligations.WaitGoesOnUntilTheBlockIsDone : Prop :=
  (∀ (d : BitVec 16) (c : EnvCycle) (s : State), waiting s = false → faulted s = false → s.fcv.st ≠ .await → s.lines = [] →
    ∃ t : State, exec (.collect ⟨d, c⟩) s = .next t ∧ t.session = .awaitingResponse .collect ∧ t.ret = s.ret ∧
      t.fcv = { s.fcv with st := .await, fill := 0, cnt := d }) ∧
  (∀ (op : Waiter) (w : BitVec 28) (r : CollectResult) (s t : State), faulted s = false →
    s.session = .awaitingResponse op → envWord w = true → exec (decodeIn w) s = .next t →
    resultOf t.fcv = some r → t.ret = returned op r ∧ t.session = sessionAfter r) ∧
  (∀ (d : BitVec 16) (c : EnvCycle) (s : State), waiting s = false → s.fcv.st = .await → s.fcv.fill ≤ 8 → s.lines = [] →
    ∃ t u : State, exec (.arm d c.rx c.tick) s = .next u ∧ exec (.collect ⟨d, c⟩) s = .next t ∧ t.fcv = u.fcv ∧
      faulted t = true)

/-- R12(a), R167, as the model stops on it (log 8): while an operation awaits its response, every call on the session or its
transport faults. -/
def Obligations.ReentrantCallsFault : Prop :=
  ∀ (s : State) (i : Instr), waiting s = true →
    ((∃ b w, i = .txb b w) ∨ (∃ f ws, i = .send f ws) ∨ (∃ a, i = .collect a) ∨
      (∃ x, i = .readConcentration x) ∨ (∃ e ws, i = .setAutoCalibration e ws) ∨ i = .setRange) →
    exec i s = .fault .reentrantOperation

/-- R90: the ten lines that READ_CONCENTRATION expands to leave the block and the transmit stream as the instruction does with the quiet
cycles of a script and no word after it. -/
def Obligations.ReadConcentrationMatchesItsExpansion : Prop :=
  ∀ s : State, waiting s = false → faulted s = false → s.fcv.st ≠ .await →
    ∃ t u : State,
      runSteps 10 { s with lines := expand s.params .readConcentration } = .next t ∧
      exec (.readConcentration .quiet) { s with lines := [] } = .next u ∧
      t.fcv = u.fcv ∧ t.tx = u.tx ∧ t.clk = u.clk ∧ waiting u = true

/-- R80: the concentration is `256 * frame[2] + frame[3]`, an unsigned 16-bit value. -/
def Obligations.ConcentrationIsBigEndian : Prop :=
  ∀ f : Frame, (ppmOf f).toNat = 256 * f[2].toNat + f[3].toNat
end

