-- ==== Sys2Proof/Laws/State.lean ====
section
/-! SUPPORT. What each named update does to each field, so that no later proof unfolds an update. -/

namespace Sys2Proof.Machine

open Sys2Proof

variable (f : Fcv) (s : State)

@[simp] theorem resetFcv_buf : (resetFcv f).buf = f.buf := rfl
@[simp] theorem resetFcv_fill : (resetFcv f).fill = 0 := rfl
@[simp] theorem resetFcv_cnt : (resetFcv f).cnt = 0 := rfl
@[simp] theorem resetFcv_st : (resetFcv f).st = .idle := rfl
@[simp] theorem resetFcv_faultBusy : (resetFcv f).faultBusy = false := rfl

@[simp] theorem armAccept_buf (d : BitVec 16) : (armAccept d f).buf = f.buf := rfl
@[simp] theorem armAccept_fill (d : BitVec 16) : (armAccept d f).fill = 0 := rfl
@[simp] theorem armAccept_cnt (d : BitVec 16) : (armAccept d f).cnt = d := rfl
@[simp] theorem armAccept_st (d : BitVec 16) : (armAccept d f).st = .await := rfl
@[simp] theorem armAccept_faultBusy (d : BitVec 16) : (armAccept d f).faultBusy = f.faultBusy := rfl

@[simp] theorem armRefuse_buf : (armRefuse f).buf = f.buf := rfl
@[simp] theorem armRefuse_fill : (armRefuse f).fill = f.fill := rfl
@[simp] theorem armRefuse_cnt : (armRefuse f).cnt = f.cnt := rfl
@[simp] theorem armRefuse_st : (armRefuse f).st = f.st := rfl
@[simp] theorem armRefuse_faultBusy : (armRefuse f).faultBusy = true := rfl

@[simp] theorem raiseTimedOut_buf : (raiseError .timedOut f).buf = f.buf := rfl
@[simp] theorem raiseTimedOut_fill : (raiseError .timedOut f).fill = 0 := rfl
@[simp] theorem raiseTimedOut_cnt : (raiseError .timedOut f).cnt = f.cnt := rfl
@[simp] theorem raiseTimedOut_st : (raiseError .timedOut f).st = .failedTimedOut := rfl
@[simp] theorem raiseTimedOut_faultBusy : (raiseError .timedOut f).faultBusy = f.faultBusy := rfl
@[simp] theorem raiseIntegrityFailure_buf : (raiseError .integrityFailure f).buf = f.buf := rfl
@[simp] theorem raiseIntegrityFailure_fill : (raiseError .integrityFailure f).fill = f.fill := rfl
@[simp] theorem raiseIntegrityFailure_cnt : (raiseError .integrityFailure f).cnt = f.cnt := rfl
@[simp] theorem raiseIntegrityFailure_st : (raiseError .integrityFailure f).st = .failedIntegrity := rfl
@[simp] theorem raiseIntegrityFailure_faultBusy : (raiseError .integrityFailure f).faultBusy = f.faultBusy := rfl

@[simp] theorem countTick_buf : (countTick f).buf = f.buf := by unfold countTick; split <;> rfl
@[simp] theorem countTick_fill : (countTick f).fill = f.fill := by unfold countTick; split <;> rfl
@[simp] theorem countTick_st : (countTick f).st = f.st := by unfold countTick; split <;> rfl
@[simp] theorem countTick_faultBusy : (countTick f).faultBusy = f.faultBusy := by unfold countTick; split <;> rfl

/-- The countdown stops at 0 and does not wrap (spec/10_state.md R23). -/
theorem countTick_cnt_toNat : (countTick f).cnt.toNat = f.cnt.toNat - 1 := by
  unfold countTick
  split
  · next h => simp [h]
  · next h =>
    have : f.cnt.toNat ≠ 0 := fun h0 => h (BitVec.eq_of_toNat_eq (by simpa using h0))
    have h1 : (1 : BitVec 16).toNat = 1 := rfl
    have hlt := f.cnt.isLt
    simp only [BitVec.toNat_sub, h1]
    omega

@[simp] theorem appendByte_buf (b : Byte) : (appendByte b f).buf = f.buf.setIfInBounds f.fill.val b := rfl
@[simp] theorem appendByte_fill (b : Byte) : (appendByte b f).fill = f.fill + 1 := rfl
@[simp] theorem appendByte_cnt (b : Byte) : (appendByte b f).cnt = f.cnt := rfl
@[simp] theorem appendByte_st (b : Byte) : (appendByte b f).st = f.st := rfl
@[simp] theorem appendByte_faultBusy (b : Byte) : (appendByte b f).faultBusy = f.faultBusy := rfl

@[simp] theorem validateByte_buf (b : Byte) : (validateByte b f).buf = f.buf.set 8 b := by
  unfold validateByte; dsimp only; split <;> rfl
@[simp] theorem validateByte_fill (b : Byte) : (validateByte b f).fill = 9 := by
  unfold validateByte; dsimp only; split <;> rfl
@[simp] theorem validateByte_cnt (b : Byte) : (validateByte b f).cnt = f.cnt := by
  unfold validateByte; dsimp only; split <;> rfl
@[simp] theorem validateByte_faultBusy (b : Byte) : (validateByte b f).faultBusy = f.faultBusy := by
  unfold validateByte; dsimp only; split <;> rfl
/-- The comparison decides the state (spec/42_response_collector.md R131). -/
theorem validateByte_st (b : Byte) :
    (validateByte b f).st = if b = chk (payload f.buf) then .done else .failedIntegrity := by
  unfold validateByte; dsimp only; split <;> rfl

@[simp] theorem settle_fcv : (settle s).fcv = s.fcv := by
  unfold settle; split
  · split <;> rfl
  all_goals rfl
@[simp] theorem settle_tx : (settle s).tx = s.tx := by
  unfold settle; split
  · split <;> rfl
  all_goals rfl
@[simp] theorem settle_scratch : (settle s).scratch = s.scratch := by
  unfold settle; split
  · split <;> rfl
  all_goals rfl
@[simp] theorem settle_lines : (settle s).lines = s.lines := by
  unfold settle; split
  · split <;> rfl
  all_goals rfl
@[simp] theorem settle_clk : (settle s).clk = s.clk := by
  unfold settle; split
  · split <;> rfl
  all_goals rfl
@[simp] theorem settle_params : (settle s).params = s.params := by
  unfold settle; split
  · split <;> rfl
  all_goals rfl

@[simp] theorem edge_fcv (g : Fcv) : (edge g s).fcv = g := by simp [edge]
@[simp] theorem edge_tx (g : Fcv) : (edge g s).tx = s.tx := by simp [edge]
@[simp] theorem edge_scratch (g : Fcv) : (edge g s).scratch = s.scratch := by simp [edge]
@[simp] theorem edge_lines (g : Fcv) : (edge g s).lines = s.lines := by simp [edge]
@[simp] theorem edge_clk (g : Fcv) : (edge g s).clk = s.clk + 1 := by simp [edge]
@[simp] theorem edge_params (g : Fcv) : (edge g s).params = s.params := by simp [edge]

@[simp] theorem clocked_fcv (p : InPorts) : (clocked p s).fcv = stepFcv p s.fcv := by simp [clocked]
@[simp] theorem clocked_tx (p : InPorts) : (clocked p s).tx = s.tx := by simp [clocked]
@[simp] theorem clocked_scratch (p : InPorts) : (clocked p s).scratch = s.scratch := by simp [clocked]
@[simp] theorem clocked_lines (p : InPorts) : (clocked p s).lines = s.lines := by simp [clocked]
@[simp] theorem clocked_clk (p : InPorts) : (clocked p s).clk = s.clk + 1 := by simp [clocked]
@[simp] theorem clocked_params (p : InPorts) : (clocked p s).params = s.params := by simp [clocked]

@[simp] theorem buildCall_fcv (c : Byte) (a : Args) : (buildCall c a s).fcv = s.fcv := rfl
@[simp] theorem buildCall_tx (c : Byte) (a : Args) : (buildCall c a s).tx = s.tx := rfl
@[simp] theorem buildCall_scratch (c : Byte) (a : Args) : (buildCall c a s).scratch = buildFrame c a := rfl
@[simp] theorem buildCall_session (c : Byte) (a : Args) : (buildCall c a s).session = s.session := rfl
@[simp] theorem buildCall_ret (c : Byte) (a : Args) : (buildCall c a s).ret = .frame (buildFrame c a) := rfl
@[simp] theorem buildCall_lines (c : Byte) (a : Args) : (buildCall c a s).lines = s.lines := rfl
@[simp] theorem buildCall_params (c : Byte) (a : Args) : (buildCall c a s).params = s.params := rfl

@[simp] theorem writeFailed_fcv : (writeFailed s).fcv = s.fcv := rfl
@[simp] theorem writeFailed_tx : (writeFailed s).tx = s.tx := rfl
@[simp] theorem writeFailed_scratch : (writeFailed s).scratch = s.scratch := rfl
@[simp] theorem writeFailed_session : (writeFailed s).session = .failed .writeFailed := rfl
@[simp] theorem writeFailed_ret : (writeFailed s).ret = .error .writeFailed := rfl
@[simp] theorem writeFailed_lines : (writeFailed s).lines = s.lines := rfl
@[simp] theorem writeFailed_clk : (writeFailed s).clk = s.clk := rfl
@[simp] theorem writeFailed_params : (writeFailed s).params = s.params := rfl

end Sys2Proof.Machine
end

