-- ==== Sys2Proof/Laws/Ops.lean ====
section
/-! SUPPORT. One lemma per shared operation that says what it can do; later proofs cite these and do not unfold. -/

namespace Sys2Proof.Machine

open Sys2Proof

/-! ## The channels of a word -/

@[simp] theorem channels_rst (c : Option (BitVec 16)) (r : Option Byte) (t : Bool) : (channels c r t).rst = false := rfl
@[simp] theorem channels_arm (c : Option (BitVec 16)) (r : Option Byte) (t : Bool) :
    (channels c r t).arm = c.isSome := rfl
@[simp] theorem channels_dur (c : Option (BitVec 16)) (r : Option Byte) (t : Bool) :
    (channels c r t).dur = c.getD 0 := rfl
@[simp] theorem channels_rxv (c : Option (BitVec 16)) (r : Option Byte) (t : Bool) :
    (channels c r t).rxv = r.isSome := rfl
@[simp] theorem channels_rxd (c : Option (BitVec 16)) (r : Option Byte) (t : Bool) :
    (channels c r t).rxd = r.getD 0 := rfl
@[simp] theorem channels_tick (c : Option (BitVec 16)) (r : Option Byte) (t : Bool) : (channels c r t).tick = t := rfl
@[simp] theorem rxOf_channels (c : Option (BitVec 16)) (r : Option Byte) (t : Bool) : rxOf (channels c r t) = r := by
  cases r <;> rfl
@[simp] theorem resetPorts_rst : resetPorts.rst = true := rfl

/-! ## The poll (R120, R129 to R131) -/

/-- Outside AWAIT a poll does nothing. -/
theorem poll_of_not_await {f : Fcv} (h : f.st ≠ .await) (rx : Option Byte) : poll rx f = f := by simp [poll, h]

/-- The deadline check comes first, whatever is offered. -/
theorem poll_expired {f : Fcv} (h : f.st = .await) (hc : f.cnt = 0#16) (rx : Option Byte) :
    poll rx f = raiseError .timedOut f := by simp [poll, h, hc]

/-- A poll that finds nothing changes nothing. -/
theorem poll_none {f : Fcv} (hc : f.cnt ≠ 0#16) : poll none f = f := by simp [poll, hc]

/-- A poll that finds a byte takes it. -/
theorem poll_some {f : Fcv} (h : f.st = .await) (hc : f.cnt ≠ 0#16) (b : Byte) : poll (some b) f = takeByte b f := by
  simp [poll, h, hc]

theorem takeByte_append {f : Fcv} (h : f.fill ≤ 7) (b : Byte) : takeByte b f = appendByte b f := by simp [takeByte, h]

theorem takeByte_validate {f : Fcv} (h : f.fill = 8) (b : Byte) : takeByte b f = validateByte b f := by
  simp [takeByte, h]

/-! ## The step of the block (R120) -/

theorem stepFcv_rst {p : InPorts} (h : p.rst = true) (f : Fcv) : stepFcv p f = resetFcv f := by simp [stepFcv, h]

theorem stepFcv_armAccept {p : InPorts} {f : Fcv} (hr : p.rst = false) (ha : p.arm = true) (h : f.st ≠ .await) :
    stepFcv p f = armAccept p.dur f := by simp [stepFcv, hr, ha, h]

/-- The poll, then the tick, then a refused ARM. -/
theorem stepFcv_poll {p : InPorts} {f : Fcv} (hr : p.rst = false) (h : p.arm = false ∨ f.st = .await) :
    stepFcv p f =
      (if p.arm then armRefuse else id) ((if p.tick then countTick else id) (poll (rxOf p) f)) := by
  rcases h with h | h <;> cases hp : p.arm <;> cases ht : p.tick <;> simp_all [stepFcv]

/-- A quiet cycle outside AWAIT leaves the block as it is (R128). -/
theorem stepFcv_quiet {f : Fcv} (h : f.st ≠ .await) : stepFcv (channels none none false) f = f := by
  simp [stepFcv, poll_of_not_await h]

/-! ## The session's wait -/

theorem settle_of_not_waiting {s : State} (h : waiting s = false) : settle s = s := by
  unfold waiting at h; unfold settle
  split at h
  · simp at h
  all_goals simp

theorem settle_of_await {s : State} (h : s.fcv.st = .await) : settle s = s := by
  unfold settle; split
  · rw [h]
  all_goals rfl

theorem settle_done {s : State} {op : Waiter} (hs : s.session = .awaitingResponse op) (h : s.fcv.st = .done) :
    settle s = { s with session := .done, ret := waitResult op (bitsFrame (frameOut s.fcv)) } := by
  simp [settle, hs, h]

theorem settle_failedTimedOut {s : State} {op : Waiter} (hs : s.session = .awaitingResponse op)
    (h : s.fcv.st = .failedTimedOut) :
    settle s = { s with session := .failed .timedOut, ret := .error .timedOut } := by simp [settle, hs, h]

theorem settle_failedIntegrity {s : State} {op : Waiter} (hs : s.session = .awaitingResponse op)
    (h : s.fcv.st = .failedIntegrity) :
    settle s = { s with session := .failed .integrityFailure, ret := .error .integrityFailure } := by
  simp [settle, hs, h]

theorem settle_idle {s : State} {op : Waiter} (hs : s.session = .awaitingResponse op) (h : s.fcv.st = .idle) :
    settle s = { s with session := .idle } := by simp [settle, hs, h]

/-- After a wait has been looked at, an operation still waits only while the block is busy. -/
theorem settle_waiting {s : State} (h : waiting (settle s) = true) : (settle s).fcv.st = .await := by
  rw [settle_fcv]
  cases hs : s.session with
  | awaitingResponse op =>
    cases hf : s.fcv.st <;> simp [settle, hs, hf, waiting] at h ⊢
  | idle => simp [settle, hs, waiting] at h
  | sending => simp [settle, hs, waiting] at h
  | done => simp [settle, hs, waiting] at h
  | failed e => simp [settle, hs, waiting] at h

/-! ## One clock cycle -/

/-- A cycle faults exactly where the write offset does not exist; otherwise it is the clocked state. -/
theorem clockCycle_eq (p : InPorts) (s : State) :
    clockCycle p s = if offsetMissing p s.fcv then .fault .bufferOffset else .next (clocked p s) := rfl

/-- What a cycle that answers next has done. -/
theorem clockCycle_next {p : InPorts} {s t : State} (h : clockCycle p s = .next t) :
    offsetMissing p s.fcv = false ∧ t = clocked p s := by
  unfold clockCycle at h
  split at h
  · cases h
  · next hm => cases h; exact ⟨by simpa using hm, rfl⟩

/-- The step and the fault test read only what the word's decoding keeps (R73, R86). -/
theorem exec_decodeIn (w : BitVec 28) (s : State) : exec (decodeIn w) s = clockCycle (unpackIn w) s := by
  unfold decodeIn
  generalize unpackIn w = p
  obtain ⟨rst, arm, dur, rxv, rxd, tick⟩ := p
  cases rst <;> cases arm <;> cases rxv <;> cases tick <;>
    simp [exec, execRst, execArm, execRxb, execRxn, execTick, clockCycle, clocked, edge, stepFcv, offsetMissing, rxTake,
      rxOf, channels, resetPorts]

/-- The word of NOP names no channel. -/
theorem unpackIn_zero : unpackIn 0 = channels none none false := by decide

end Sys2Proof.Machine
end

