-- ==== Sys2Proof/Laws/PerInstr.lean ====
section
/-! SUPPORT. Statements about every instruction as syntax, one lemma per constructor. Family TableRow: the encoder's word lies in the
instruction's own row of spec/opcode_table.json, with the table's command codes. -/

namespace Sys2Proof.Laws.TableRow

open Sys2Proof Sys2Proof.Machine

/-- The encoding of an instruction, where it has one, has the row's match bits under the row's mask, and is of the row's
format. -/
def Statement (i : Instr) : Prop :=
  match encode Params.default i with
  | some (.word w) => ∃ m k, inRow i = some (m, k) ∧ w &&& k = m
  | some (.frame f) => ∃ m k, frameRow i = some (m, k) ∧ f &&& k = m
  | some (.call j) => j = i ∧ inRow i = none ∧ frameRow i = none
  | none => i.wf = false

/-- Masking nine bytes side by side is masking each. -/
theorem and_append9 (a0 a1 a2 a3 a4 a5 a6 a7 a8 m0 m1 m2 m3 m4 m5 m6 m7 m8 : Byte) :
    ((a0 ++ a1 ++ a2 ++ a3 ++ a4 ++ a5 ++ a6 ++ a7 ++ a8 : BitVec 72) &&&
      (m0 ++ m1 ++ m2 ++ m3 ++ m4 ++ m5 ++ m6 ++ m7 ++ m8 : BitVec 72))
      = (a0 &&& m0) ++ (a1 &&& m1) ++ (a2 &&& m2) ++ (a3 &&& m3) ++ (a4 &&& m4) ++ (a5 &&& m5) ++ (a6 &&& m6)
        ++ (a7 &&& m7) ++ (a8 &&& m8) := by
  have key : ∀ {w v : Nat} (x y : BitVec w) (p q : BitVec v), (x ++ p) &&& (y ++ q) = (x &&& y) ++ (p &&& q) :=
    fun x y p q => BitVec.and_append
  refine (key _ _ _ _).trans ?_
  congr 1
  simp only [BitVec.and_append]

/-- The row's mask over the 72-bit vector, byte by byte: offsets 0 to 2. -/
theorem frameMask_bytes :
    (0xFFFFFF000000000000 : BitVec 72)
      = 0xFF#8 ++ 0xFF#8 ++ 0xFF#8 ++ 0#8 ++ 0#8 ++ 0#8 ++ 0#8 ++ 0#8 ++ 0#8 := by decide

/-- Under the mask a built frame is its two constants and its code, whatever its arguments (R84). -/
theorem builtFrame_masked (code : Byte) (args : Args) :
    frameBits (buildFrame code args) &&& 0xFFFFFF000000000000
      = 0xFF#8 ++ 0x01#8 ++ code ++ 0#8 ++ 0#8 ++ 0#8 ++ 0#8 ++ 0#8 ++ 0#8 := by
  have hones : ∀ b : Byte, b &&& 0xFF#8 = b := fun b => BitVec.and_allOnes (x := b)
  rw [frameMask_bytes]
  unfold frameBits
  rw [and_append9]
  simp only [hones, BitVec.and_zero]
  rfl

/-- The fields of `ARM d` and `RXB b` lie beside their pattern bits, so adding is joining (R89). -/
theorem armPart_eq_or (d : BitVec 16) :
    0x4000000#28 + (d.setWidth 28 <<< 10) = 0x4000000#28 ||| (d.setWidth 28 <<< 10) := by
  apply BitVec.add_eq_or_of_and_eq_zero
  apply BitVec.eq_of_getLsbD_eq
  intro i hi
  interval_cases i <;> simp [BitVec.getLsbD_of_ge]
theorem rxPart_eq_or (b : Byte) :
    0x0000200#28 + (b.setWidth 28 <<< 1) = 0x0000200#28 ||| (b.setWidth 28 <<< 1) := by
  apply BitVec.add_eq_or_of_and_eq_zero
  apply BitVec.eq_of_getLsbD_eq
  intro i hi
  interval_cases i <;> simp [BitVec.getLsbD_of_ge]


theorem armWord_masked (d : BitVec 16) (rx : Option Byte) (t : Bool) :
    assembleWord false (some d) rx t &&& 0xC000000 = 0x4000000 := by
  apply BitVec.eq_of_getLsbD_eq
  intro i hi
  cases rx <;> cases t <;> simp only [assembleWord, armPart_eq_or, rxPart_eq_or] <;>
  interval_cases i <;> simp [BitVec.getLsbD_of_ge]

theorem rxbWord_masked (b : Byte) (t : Bool) :
    assembleWord false none (some b) t &&& 0x8000200 = 0x0000200 := by
  apply BitVec.eq_of_getLsbD_eq
  intro i hi
  cases t <;> simp only [assembleWord, rxPart_eq_or] <;>
  interval_cases i <;> simp [BitVec.getLsbD_of_ge]

theorem rst : Statement .rst := ⟨_, _, rfl, by decide⟩
theorem arm (d : BitVec 16) (rx : Option Byte) (t : Bool) : Statement (.arm d rx t) :=
  ⟨_, _, rfl, armWord_masked d rx t⟩
theorem rxb (b : Byte) (t : Bool) : Statement (.rxb b t) := ⟨_, _, rfl, rxbWord_masked b t⟩
theorem rxn : Statement .rxn := ⟨_, _, rfl, by decide⟩
theorem tick : Statement .tick := ⟨_, _, rfl, by decide⟩
theorem nop : Statement .nop := ⟨_, _, rfl, by decide⟩
theorem timeout : Statement .timeout := rfl
theorem append (b : Byte) : Statement (.append b) := rfl
theorem validate (b : Byte) : Statement (.validate b) := rfl
theorem fReadConcentration : Statement .fReadConcentration :=
  ⟨_, _, rfl, (builtFrame_masked _ _).trans (by decide)⟩
theorem fCalibrateZeroPoint (a : Args) : Statement (.fCalibrateZeroPoint a) :=
  ⟨_, _, rfl, (builtFrame_masked _ _).trans (by decide)⟩
theorem fCalibrateSpanPoint (a : Args) : Statement (.fCalibrateSpanPoint a) :=
  ⟨_, _, rfl, (builtFrame_masked _ _).trans (by decide)⟩
theorem fSetAutoCalibration (e : Bool) : Statement (.fSetAutoCalibration e) :=
  ⟨_, _, rfl, (builtFrame_masked _ _).trans (by decide)⟩
theorem fSetDetectionRange (a : Args) : Statement (.fSetDetectionRange a) :=
  ⟨_, _, rfl, (builtFrame_masked _ _).trans (by decide)⟩
theorem chk (l : Payload) : Statement (.chk l) := ⟨rfl, rfl, rfl⟩
theorem build (c : Byte) (a : Args) : Statement (.build c a) := ⟨rfl, rfl, rfl⟩
theorem txb (b : Byte) (w : Write) : Statement (.txb b w) := ⟨rfl, rfl, rfl⟩
theorem send (f : Frame) (ws : Writes) : Statement (.send f ws) := ⟨rfl, rfl, rfl⟩
theorem collect (a : ArmCycle) : Statement (.collect a) := ⟨rfl, rfl, rfl⟩
theorem readConcentration (x : Exchange) : Statement (.readConcentration x) := ⟨rfl, rfl, rfl⟩
theorem setAutoCalibration (e : Bool) (ws : Writes) : Statement (.setAutoCalibration e ws) := ⟨rfl, rfl, rfl⟩
theorem setRange : Statement .setRange := ⟨rfl, rfl, rfl⟩

end Sys2Proof.Laws.TableRow
end

