-- ==== Sys2Proof/Laws/Procedures.lean ====
section
/-! SUPPORT. What the shared operations of the host's procedures do: cycles of the other agents, writes, a whole frame, the ARM of a
collection. -/

namespace Sys2Proof.Machine

open Sys2Proof

/-! ## Going on -/

@[simp] theorem andThen_next (s : State) (k : State → Host.Outcome State Fault Refusal) : andThen (.next s) k = k s := rfl
@[simp] theorem andThen_fault (e : Fault) (k : State → Host.Outcome State Fault Refusal) :
    andThen (.fault e) k = .fault e := rfl
@[simp] theorem andThen_refused (r : Refusal) (k : State → Host.Outcome State Fault Refusal) :
    andThen (.refused r) k = .refused r := rfl

/-- What is known of an outcome that went on to a next state. -/
theorem andThen_eq_next {o : Host.Outcome State Fault Refusal} {k : State → Host.Outcome State Fault Refusal} {t : State} :
    andThen o k = .next t ↔ ∃ u, o = .next u ∧ k u = .next t := by
  cases o <;> simp [andThen]

/-- A host call that completes found no operation waiting. -/
theorem hostCall_next {s t : State} {o : Host.Outcome State Fault Refusal} (h : hostCall s o = .next t) :
    waiting s = false ∧ o = .next t := by
  unfold hostCall at h
  split at h
  · cases h
  · next hw => exact ⟨by simpa using hw, h⟩

theorem hostCall_of_not_waiting {s : State} (h : waiting s = false) (o : Host.Outcome State Fault Refusal) :
    hostCall s o = o := by simp [hostCall, h]

/-! ## Cycles of the other agents -/

/-- A step keeps R26(b): in AWAIT `fill` is at most 8. -/
theorem stepFcv_await_fill (p : InPorts) (f : Fcv) (h : f.st = .await → f.fill ≤ 8) :
    (stepFcv p f).st = .await → (stepFcv p f).fill ≤ 8 := by
  have up : ∀ x : Fin 10, x ≤ 7 → x + 1 ≤ 8 := by decide
  obtain ⟨rst, arm, dur, rxv, rxd, tick⟩ := p
  obtain ⟨buf, fill, cnt, st, fb⟩ := f
  cases rst
  · cases st
    case await =>
      have h8 : fill ≤ 8 := h rfl
      rw [stepFcv_poll rfl (.inr rfl)]
      have key : (poll (rxOf ⟨false, arm, dur, rxv, rxd, tick⟩) ⟨buf, fill, cnt, .await, fb⟩).st = .await →
          (poll (rxOf ⟨false, arm, dur, rxv, rxd, tick⟩) ⟨buf, fill, cnt, .await, fb⟩).fill ≤ 8 := by
        by_cases hc : cnt = 0#16
        · rw [poll_expired rfl hc]; simp
        · cases rxv
          · simpa [rxOf, poll_none (f := ⟨buf, fill, cnt, .await, fb⟩) hc] using h8
          · by_cases h7 : fill ≤ 7
            · simpa [rxOf, poll_some (f := ⟨buf, fill, cnt, .await, fb⟩) rfl hc, takeByte, h7] using up _ h7
            · simp only [rxOf, if_true, poll_some (f := ⟨buf, fill, cnt, .await, fb⟩) rfl hc, takeByte, h7, if_false,
                validateByte_st]
              split <;> simp
      cases arm <;> cases tick <;> simpa using key
    all_goals
      cases arm
      · rw [stepFcv_poll rfl (.inl rfl), poll_of_not_await (by simp)]
        cases tick <;> simp
      · rw [stepFcv_armAccept rfl rfl (by simp)]; simp
  · rw [stepFcv_rst rfl]; simp

/-- With R26(b) no cycle faults. -/
theorem offsetMissing_of_fill {p : InPorts} {f : Fcv} (h : f.st = .await → f.fill ≤ 8) : offsetMissing p f = false := by
  by_contra hc
  simp [offsetMissing, rxTake] at hc
  have := h hc.2.1
  rw [hc.2.2.2.2] at this
  exact absurd this (by decide)

/-- With no operation waiting a cycle changes the block and the clock alone. -/
theorem clocked_of_not_waiting {s : State} (h : waiting s = false) (p : InPorts) :
    clocked p s = { s with fcv := stepFcv p s.fcv, clk := s.clk + 1 } := settle_of_not_waiting h

/-- Cycles of the other agents with no operation waiting: the block takes their words, the clock counts them, and nothing else
changes. -/
theorem envCycles_eq (cs : List EnvCycle) (s : State) (hw : waiting s = false) (hf : s.fcv.st = .await → s.fcv.fill ≤ 8) :
    envCycles cs s = .next { s with fcv := blockAfter cs s.fcv, clk := s.clk + cs.length } := by
  induction cs generalizing s with
  | nil => rfl
  | cons c cs ih =>
    have hc : clockCycle (channels none c.rx c.tick) s = .next (clocked (channels none c.rx c.tick) s) := by
      simp [clockCycle, offsetMissing_of_fill hf]
    rw [envCycles, hc, andThen_next, clocked_of_not_waiting hw]
    refine (ih _ ?_ ?_).trans ?_
    · exact hw
    · exact stepFcv_await_fill _ _ hf
    simp only [blockAfter, List.foldl_cons, List.length_cons, Host.Outcome.next.injEq, State.mk.injEq, true_and, and_true]
    omega

/-- In AWAIT `fill` stays at most 8 over any cycles (R26(b)). -/
theorem blockAfter_await_fill (cs : List EnvCycle) (f : Fcv) (h : f.st = .await → f.fill ≤ 8) :
    (blockAfter cs f).st = .await → (blockAfter cs f).fill ≤ 8 := by
  induction cs generalizing f with
  | nil => exact h
  | cons c cs ih => exact ih _ (stepFcv_await_fill _ _ h)

theorem blockAfter_append (cs ds : List EnvCycle) (f : Fcv) : blockAfter (cs ++ ds) f = blockAfter ds (blockAfter cs f) := by
  simp [blockAfter]

/-- Cycles in which the host drives nothing never arm the block. -/
theorem blockAfter_not_await (cs : List EnvCycle) (f : Fcv) (h : f.st ≠ .await) : (blockAfter cs f).st = f.st := by
  induction cs generalizing f with
  | nil => rfl
  | cons c cs ih =>
    have e : (stepFcv (channels none c.rx c.tick) f).st = f.st := by
      rw [stepFcv_poll rfl (.inl rfl), poll_of_not_await h]
      cases c.tick <;> simp
    exact (ih _ (by rw [e]; exact h)).trans e

/-! ## Writes -/

/-- One write: its cycles, then its byte where it is accepted (R161). -/
theorem writeByte_eq (b : Byte) (w : Write) (s : State) (hw : waiting s = false)
    (hf : s.fcv.st = .await → s.fcv.fill ≤ 8) :
    writeByte b w s = .next { s with
      fcv := blockAfter w.during s.fcv, clk := s.clk + w.during.length,
      tx := if w.accepted then s.tx ++ [b] else s.tx } := by
  rw [writeByte, envCycles_eq _ _ hw hf]
  cases h : w.accepted <;> simp

/-- Writes that are all accepted go on with `k` (R162). -/
theorem writeAll_accepted (k : State → Host.Outcome State Fault Refusal) (ws : List (Byte × List EnvCycle)) (s : State)
    (hw : waiting s = false) (hf : s.fcv.st = .await → s.fcv.fill ≤ 8) :
    writeAll k ws none s = k { s with
      fcv := blockAfter (ws.map (·.2)).flatten s.fcv, clk := s.clk + (ws.map (·.2)).flatten.length,
      tx := s.tx ++ ws.map (·.1) } := by
  induction ws generalizing s with
  | nil => simp [writeAll, blockAfter]
  | cons w ws ih =>
    obtain ⟨b, cs⟩ := w
    rw [writeAll, writeByte_eq _ _ _ hw hf, andThen_next]
    refine (ih _ ?_ ?_).trans ?_
    · exact hw
    · exact blockAfter_await_fill cs _ hf
    simp [blockAfter_append, Nat.add_assoc]

/-- Writes stop at the first that is rejected, number `i` (R162, R183). -/
theorem writeAll_rejected (k : State → Host.Outcome State Fault Refusal) (ws : List (Byte × List EnvCycle)) (i : Nat)
    (hi : i < ws.length) (s : State) (hw : waiting s = false) (hf : s.fcv.st = .await → s.fcv.fill ≤ 8) :
    writeAll k ws (some i) s = .next (writeFailed { s with
      fcv := blockAfter ((ws.map (·.2)).take (i + 1)).flatten s.fcv,
      clk := s.clk + ((ws.map (·.2)).take (i + 1)).flatten.length,
      tx := s.tx ++ (ws.map (·.1)).take i }) := by
  induction ws generalizing s i with
  | nil => simp at hi
  | cons w ws ih =>
    obtain ⟨b, cs⟩ := w
    cases i with
    | zero => rw [writeAll, writeByte_eq _ _ _ hw hf, andThen_next]; simp
    | succ i =>
      rw [writeAll, writeByte_eq _ _ _ hw hf, andThen_next]
      refine (ih i (by simpa using hi) _ ?_ ?_).trans ?_
      · exact hw
      · exact blockAfter_await_fill cs _ hf
      simp [blockAfter_append, Nat.add_assoc]

/-- A frame and the cycles of its writes, taken apart again. -/
theorem zip_writes (f : Frame) (during : Vector (List EnvCycle) 9) :
    (f.toList.zip during.toList).map (·.1) = f.toList ∧ (f.toList.zip during.toList).map (·.2) = during.toList :=
  ⟨List.map_fst_zip (by simp), List.map_snd_zip (by simp)⟩

/-- SEND with every write accepted: the nine bytes have gone out, the block is as after the cycles, and the operation goes on
with `k` (R162). -/
theorem sendFrame_accepted (f : Frame) (during : Vector (List EnvCycle) 9) (k : State → Host.Outcome State Fault Refusal)
    (s : State) (hf : s.fcv.st = .await → s.fcv.fill ≤ 8) :
    sendFrame f ⟨none, during⟩ k s = k { s with
      session := .sending, fcv := blockAfter (cyclesOf during 9) s.fcv, clk := s.clk + (cyclesOf during 9).length,
      tx := s.tx ++ f.toList } := by
  obtain ⟨h1, h2⟩ := zip_writes f during
  have h9 : cyclesOf during 9 = during.toList.flatten := by
    rw [cyclesOf, List.take_of_length_le (by simp)]
  rw [sendFrame, Option.map_none]
  refine (writeAll_accepted k _ _ ?_ ?_).trans ?_
  · rfl
  · exact hf
  rw [h1, h2, h9]

/-- SEND with the write at `i` the first rejected: the bytes before it have gone out, and the session has failed
(R162, R183). -/
theorem sendFrame_rejected (f : Frame) (i : Fin 9) (during : Vector (List EnvCycle) 9)
    (k : State → Host.Outcome State Fault Refusal) (s : State) (hf : s.fcv.st = .await → s.fcv.fill ≤ 8) :
    sendFrame f ⟨some i, during⟩ k s = .next (writeFailed { s with
      session := .sending, fcv := blockAfter (cyclesOf during (i.val + 1)) s.fcv,
      clk := s.clk + (cyclesOf during (i.val + 1)).length, tx := s.tx ++ f.toList.take i.val }) := by
  obtain ⟨h1, h2⟩ := zip_writes f during
  rw [sendFrame, Option.map_some]
  refine (writeAll_rejected k _ _ (by simp) _ ?_ ?_).trans ?_
  · rfl
  · exact hf
  rw [h1, h2]
  rfl

/-! ## The ARM of a collection -/

/-- Outside AWAIT the ARM of COLLECT is accepted, the session awaits, and the word's other channels do nothing
(R123, R163). -/
theorem startCollect_accepted (op : Waiter) (a : ArmCycle) (s : State) (hw : waiting s = false) (h : s.fcv.st ≠ .await) :
    startCollect op a s = .next { s with
      fcv := armAccept a.dur s.fcv, clk := s.clk + 1, session := .awaitingResponse op } := by
  have hm : offsetMissing (channels (some a.dur) a.env.rx a.env.tick) s.fcv = false :=
    offsetMissing_of_fill fun ha => absurd ha h
  rw [startCollect, clockCycle_eq, hm, clocked_of_not_waiting hw, stepFcv_armAccept rfl rfl h]
  simp only [Bool.false_eq_true, if_false, andThen_next]
  exact congrArg Host.Outcome.next (settle_of_await rfl)

end Sys2Proof.Machine
end

