-- ==== Sys2Proof/Laws/Relied.lean ====
section
/-! SUPPORT. What a step that is relied on can do: no operation but the wait reads the rest of the script, and a step in none of whose cycles
`fault_busy` is set ends unfaulted. -/

namespace Sys2Proof.Machine

open Sys2Proof

/-- A state with another rest of the script. -/
abbrev withLines (L : List Line) (s : State) : State := { s with lines := L }

/-- An operation that neither reads nor writes the rest of the script. -/
def Scriptless (f : State → Host.Outcome State Fault Refusal) : Prop :=
  ∀ L s t, f s = .next t → f (withLines L s) = .next (withLines L t)

theorem clockCycle_of_inside {p : InPorts} {s : State} (h : offsetMissing p s.fcv = false) :
    clockCycle p s = .next (clocked p s) := by simp [clockCycle, h]

theorem settle_withLines (s : State) (L : List Line) : settle (withLines L s) = withLines L (settle s) := by
  obtain ⟨⟨buf, fill, cnt, st, fb⟩, tx, sc, ses, ret, lines, clk, par⟩ := s
  cases ses <;> cases st <;> rfl

theorem edge_withLines (g : Fcv) (s : State) (L : List Line) : edge g (withLines L s) = withLines L (edge g s) :=
  settle_withLines { s with fcv := g, clk := s.clk + 1 } L

theorem scriptless_andThen {f k : State → Host.Outcome State Fault Refusal} (hf : Scriptless f) (hk : Scriptless k) :
    Scriptless (fun s => andThen (f s) k) := by
  intro L s t h
  obtain ⟨u, hu, h⟩ := andThen_eq_next.1 h
  dsimp only
  rw [hf L s u hu]
  exact hk L u t h

theorem scriptless_next {g : State → State} (h : ∀ L s, g (withLines L s) = withLines L (g s)) :
    Scriptless (fun s => .next (g s)) := by
  intro L s t ht
  cases ht
  exact congrArg Host.Outcome.next (h L s)

theorem scriptless_clockCycle (p : InPorts) : Scriptless (clockCycle p) := by
  intro L s t h
  obtain ⟨hm, rfl⟩ := clockCycle_next h
  rw [clockCycle_of_inside (s := withLines L s) hm]
  exact congrArg Host.Outcome.next (edge_withLines _ s L)

theorem scriptless_envCycles (cs : List EnvCycle) : Scriptless (envCycles cs) := by
  induction cs with
  | nil => intro L s t h; cases h; rfl
  | cons c cs ih => exact scriptless_andThen (scriptless_clockCycle _) ih

theorem scriptless_writeByte (b : Byte) (w : Write) : Scriptless (writeByte b w) :=
  scriptless_andThen (scriptless_envCycles _) (scriptless_next fun L s => by split <;> rfl)

theorem scriptless_writeAll {k : State → Host.Outcome State Fault Refusal} (hk : Scriptless k)
    (ws : List (Byte × List EnvCycle)) : ∀ r, Scriptless (writeAll k ws r) := by
  induction ws with
  | nil => intro r; cases r <;> exact hk
  | cons w ws ih =>
    intro r
    obtain ⟨b, cs⟩ := w
    match r with
    | none => exact scriptless_andThen (scriptless_writeByte _ _) (ih _)
    | some 0 => exact scriptless_andThen (scriptless_writeByte _ _) (scriptless_next fun L s => rfl)
    | some (n + 1) => exact scriptless_andThen (scriptless_writeByte _ _) (ih _)

theorem scriptless_sendFrame {k : State → Host.Outcome State Fault Refusal} (hk : Scriptless k) (f : Frame) (w : Writes) :
    Scriptless (sendFrame f w k) := by
  intro L s t h
  exact scriptless_writeAll hk _ _ L { s with session := .sending } t h

theorem scriptless_startCollect (op : Waiter) (a : ArmCycle) : Scriptless (startCollect op a) :=
  scriptless_andThen (scriptless_clockCycle _)
    (scriptless_next fun L s => settle_withLines { s with session := .awaitingResponse op } L)

/-- Whether a wait faults does not depend on the lines its state holds. -/
theorem waitFaults_withLines (ls : List Line) : ∀ L s, waitFaults ls (withLines L s) = waitFaults ls s := by
  induction ls with
  | nil => intros; rfl
  | cons l ls ih =>
    intro L s
    cases l with
    | word w =>
      simp only [waitFaults, show waiting (withLines L s) = waiting s from rfl]
      congr 1
      cases hm : offsetMissing (unpackIn w) s.fcv
      · rw [clockCycle_of_inside (s := s) hm, scriptless_clockCycle _ L s _ (clockCycle_of_inside hm)]
        simp only [ih]
        rfl
      · rw [clockCycle_eq, clockCycle_eq, show (withLines L s).fcv = s.fcv from rfl, hm]
        rfl
    | frame f => rfl
    | call i => rfl

/-- A wait begun unfaulted in which no cycle sets `fault_busy` ends unfaulted. -/
theorem awaitResponse_unfaulted (ls : List Line) : ∀ s t, awaitResponse ls s = .next t → faulted s = false →
    waitFaults ls s = false → faulted t = false := by
  induction ls with
  | nil => intro s t h hf _; cases h; exact hf
  | cons l ls ih =>
    intro s t h hf hw
    cases l with
    | word w =>
      simp only [awaitResponse] at h
      simp only [waitFaults] at hw
      split at h
      · next hh =>
        rw [hh] at hw
        split at h
        · next u hu =>
          simp only [hu, Bool.true_and, Bool.or_eq_false_iff] at hw
          exact ih _ _ h hw.1 hw.2
        · cases h
        · cases h
      · cases h; exact hf
    | frame f => cases h; exact hf
    | call i => cases h; exact hf

/-- `k` does over the script `ls` what `k0` does with no script, and then waits: where no cycle of either sets `fault_busy`, `k` ends
unfaulted. -/
def EndsInWait (k k0 : State → Host.Outcome State Fault Refusal) (ls : List Line) : Prop :=
  ∀ s t, k s = .next t → ∃ u, k0 (withLines [] s) = .next u ∧
    (faulted u = false → waitFaults ls u = false → faulted t = false)

theorem endsInWait_collect (op : Waiter) (a : ArmCycle) (ls : List Line) :
    EndsInWait (fun s => andThen (startCollect op a s) (awaitResponse ls))
      (fun s => andThen (startCollect op a s) (awaitResponse [])) ls := by
  intro s t h
  obtain ⟨u, hu, h⟩ := andThen_eq_next.1 h
  refine ⟨withLines [] u, ?_, fun h1 h2 => awaitResponse_unfaulted ls u t h h1 ?_⟩
  · dsimp only
    rw [scriptless_startCollect op a [] s u hu]
    rfl
  · rwa [waitFaults_withLines] at h2

theorem endsInWait_writeAll {k k0 : State → Host.Outcome State Fault Refusal} {ls : List Line} (hk : EndsInWait k k0 ls)
    (ws : List (Byte × List EnvCycle)) : ∀ r, EndsInWait (writeAll k ws r) (writeAll k0 ws r) ls := by
  induction ws with
  | nil => intro r; cases r <;> exact hk
  | cons w ws ih =>
    intro r s t h
    obtain ⟨b, cs⟩ := w
    match r with
    | none =>
      obtain ⟨u, hu, h⟩ := andThen_eq_next.1 h
      obtain ⟨v, hv, hh⟩ := ih _ u t h
      exact ⟨v, by simp only [writeAll]; rw [scriptless_writeByte b ⟨true, cs⟩ [] s u hu]; exact hv, hh⟩
    | some 0 =>
      obtain ⟨u, hu, h⟩ := andThen_eq_next.1 h
      cases h
      refine ⟨writeFailed (withLines [] u), ?_, fun h1 _ => h1⟩
      simp only [writeAll]
      rw [scriptless_writeByte b ⟨false, cs⟩ [] s u hu]
      rfl
    | some (n + 1) =>
      obtain ⟨u, hu, h⟩ := andThen_eq_next.1 h
      obtain ⟨v, hv, hh⟩ := ih _ u t h
      exact ⟨v, by simp only [writeAll]; rw [scriptless_writeByte b ⟨true, cs⟩ [] s u hu]; exact hv, hh⟩

/-- An instruction in none of whose cycles `fault_busy` is set ends unfaulted, so that `reliedStep` need not look at the end of
the step as well (R200, D14). -/
theorem exec_unfaulted (i : Instr) (s t : State) (h : exec i s = .next t) (hd : faultsDuring i s = false) :
    faulted t = false := by
  have simple : exec i (withLines [] s) = .next (withLines [] t) → faulted t = false := by
    intro he
    rw [faultsDuring, he] at hd
    simp only [Bool.or_eq_false_iff] at hd
    exact hd.1
  have wait : waiting s = false → (∃ u, exec i (withLines [] s) = .next u ∧
      (faulted u = false → waitFaults s.lines u = false → faulted t = false)) → faulted t = false := by
    rintro hw ⟨u, he, hu⟩
    rw [faultsDuring, he] at hd
    simp only [hw, Bool.not_false, Bool.true_and, Bool.or_eq_false_iff] at hd
    exact hu hd.1 hd.2
  have call : waiting s = false → ∀ o, hostCall (withLines [] s) o = o := fun hw o =>
    hostCall_of_not_waiting (s := withLines [] s) hw o
  cases i
  case rst => simp only [exec, execRst] at h simple; exact simple (scriptless_clockCycle _ [] s t h)
  case arm => simp only [exec, execArm] at h simple; exact simple (scriptless_clockCycle _ [] s t h)
  case rxb => simp only [exec, execRxb] at h simple; exact simple (scriptless_clockCycle _ [] s t h)
  case rxn => simp only [exec, execRxn] at h simple; exact simple (scriptless_clockCycle _ [] s t h)
  case tick => simp only [exec, execTick] at h simple; exact simple (scriptless_clockCycle _ [] s t h)
  case nop => simp only [exec, execNop] at h simple; exact simple (scriptless_clockCycle _ [] s t h)
  case timeout =>
    apply simple
    simp only [exec, execTimeout] at h ⊢
    split at h <;> cases h
    · next hc => rw [if_pos (by exact hc)]; exact congrArg Host.Outcome.next (edge_withLines _ s [])
    · next hc => rw [if_neg (by exact hc)]
  case append b =>
    apply simple
    simp only [exec, execAppend] at h ⊢
    split at h <;> cases h
    · next hc => rw [if_pos (by exact hc)]; exact congrArg Host.Outcome.next (edge_withLines _ s [])
    · next hc => rw [if_neg (by exact hc)]
  case validate b =>
    apply simple
    simp only [exec, execValidate] at h ⊢
    split at h <;> cases h
    · next hc => rw [if_pos (by exact hc)]; exact congrArg Host.Outcome.next (edge_withLines _ s [])
    · next hc => rw [if_neg (by exact hc)]
  case txb b w =>
    obtain ⟨hw, h⟩ := hostCall_next h
    refine simple ((call hw _).trans ?_)
    exact scriptless_andThen (k := fun t => .next { t with ret := if w.accepted then .ok else .err })
      (scriptless_writeByte b w) (scriptless_next fun L s => rfl) [] s t h
  case send f w =>
    obtain ⟨hw, h⟩ := hostCall_next h
    refine simple ((call hw _).trans ?_)
    exact scriptless_sendFrame (k := fun t => .next { t with ret := .ok }) (scriptless_next fun L s => rfl) f w [] s t h
  case setAutoCalibration e w =>
    obtain ⟨hw, h⟩ := hostCall_next h
    refine simple ((call hw _).trans ?_)
    exact scriptless_sendFrame (k := fun t => .next { t with session := .done, ret := .unit })
      (scriptless_next fun L s => rfl) _ w [] _ t h
  case setRange =>
    obtain ⟨hw, h⟩ := hostCall_next h
    cases h
    exact simple ((call hw _).trans rfl)
  case collect a =>
    obtain ⟨hw, h⟩ := hostCall_next h
    obtain ⟨u, hu, hh⟩ := endsInWait_collect .collect a s.lines s t h
    exact wait hw ⟨u, (call hw _).trans hu, hh⟩
  case readConcentration x =>
    obtain ⟨hw, h⟩ := hostCall_next h
    obtain ⟨u, hu, hh⟩ := endsInWait_writeAll
      (endsInWait_collect .readConcentration ⟨Config.timeoutTicks, x.arming⟩ s.lines) _ _ _ t h
    exact wait hw ⟨u, (call hw _).trans hu, hh⟩
  all_goals (cases h; exact simple rfl)

end Sys2Proof.Machine
end

