-- ==== Sys2Proof/Tests/Slice0.lean ====
section
/-! SUPPORT. Tests, expected values from spec/95_test_vectors.md (V, S) and the rules named; and for every statement with hypotheses a
concrete state and operands that meet them. -/

namespace Sys2Proof.Tests

open Sys2Proof Sys2Proof.Machine

/-! ## Helpers -/

/-- The answer FF 01 04 B0 00 00 00 00 4B (S6). -/
def answer : Frame := #v[0xFF, 0x01, 0x04, 0xB0, 0, 0, 0, 0, 0x4B]

/-- The block in the state `(st, fill, cnt, fault_busy)` with that buffer, everything else as after reset. -/
def block (st : St) (fill : Fin 10) (cnt : BitVec 16) (fb : Bool) (buf : Frame := answer) : State :=
  { State.reset with fcv := ⟨buf, fill, cnt, st, fb⟩ }

/-- A state of the machine in which an operation waits. -/
def awaiting (op : Waiter) (s : State) : State := { s with session := .awaitingResponse op }

/-- The state an instruction or a step answers, if it answers one. -/
def next? (o : Host.Outcome State Fault Refusal) : Option State :=
  match o with
  | .next s => some s
  | .fault _ => none
  | .refused _ => none

/-- The fault it answers, if any. -/
def fault? (o : Host.Outcome State Fault Refusal) : Option Fault :=
  match o with
  | .fault e => some e
  | .next _ => none
  | .refused _ => none

/-- The refusal it answers, if any. -/
def refusal? (o : Host.Outcome State Fault Refusal) : Option Refusal :=
  match o with
  | .refused e => some e
  | .next _ => none
  | .fault _ => none

/-- Whether the state it answers has a property. -/
def nextHas (o : Host.Outcome State Fault Refusal) (p : State → Bool) : Bool :=
  match o with
  | .next s => p s
  | .fault _ => false
  | .refused _ => false

/-- Why a line is refused, if it is. -/
def decodeError? (l : Line) : Option DecodeError :=
  match decodeLine Params.default l with
  | .error e => some e
  | .ok _ => none

/-- `(st, fill, cnt, fault_busy)` and the buffer after an outcome. -/
def blockOf (o : Host.Outcome State Fault Refusal) : Option (St × Fin 10 × BitVec 16 × Bool × Frame) :=
  (next? o).map fun s => (s.fcv.st, s.fcv.fill, s.fcv.cnt, s.fcv.faultBusy, s.fcv.buf)

/-- What the host sees of an outcome: transmit stream, session, returned value, lines left. -/
def hostOf (o : Host.Outcome State Fault Refusal) : Option (List Byte × Session × Ret × List Line) :=
  (next? o).map fun s => (s.tx, s.session, s.ret, s.lines)

/-! ## WellFormed: each check refuses an ill-formed term -/

theorem test_params_default_wf : Params.default.wf = true := by decide
theorem test_params_equal_codes_refused : Params.wf { Params.default with codeSetDetectionRange := 0x86 } = false := by
  decide
theorem test_range_outside_the_set_refused :
    Range.wf Params.default ⟨1200⟩ = false ∧ Range.wf Params.default ⟨2000⟩ = true := by decide
theorem test_internal_transitions_ill_formed :
    Instr.wf .timeout = false ∧ Instr.wf (.append 0) = false ∧ Instr.wf (.validate 0) = false := by decide
theorem test_line_bad_start_marker_refused : Line.wf (.frame 0xFE0186000000000079) = false := by decide
theorem test_line_bad_device_id_refused : Line.wf (.frame 0xFF0286000000000079) = false := by decide
theorem test_line_call_of_an_encoded_row_refused :
    Line.wf (.call .tick) = false ∧ Line.wf (.call .timeout) = false ∧ Line.wf (.call .fReadConcentration) = false := by
  decide

/-! ## Decoding: words written out in the spec (R83, R84, R89, V18 to V45) -/

theorem test_decode_rst : decodeTableWord 28 0x8000208 = some .rst := by decide
theorem test_decode_arm : decodeTableWord 28 0x7FFFC00 = some (.arm 65535 none false) := by decide
theorem test_decode_arm_with_channels : decodeTableWord 28 0x4001761 = some (.arm 5 (some 0xB0) true) := by decide
theorem test_decode_rxb : decodeTableWord 28 0x0000296 = some (.rxb 0x4B false) := by decide
theorem test_decode_rxb_tick : decodeTableWord 28 0x0000203 = some (.rxb 0x01 true) := by decide
theorem test_decode_rxn_and_nop : decodeTableWord 28 0x0000000 = some .rxn ∧ encode Params.default .nop = some (.word 0) := by
  decide
theorem test_decode_tick : decodeTableWord 32 0x0000001 = some .tick := by decide
theorem test_decode_unread_bits_dropped :
    decodeTableWord 28 0x3FFFDFF = some .tick ∧ decodeTableWord 28 0x3FFFDFE = some .rxn := by decide
theorem test_decode_frame_any_checksum_byte : decodeTableWord 72 0xFF0186000000000000 = some .fReadConcentration := by
  decide
theorem test_decode_frame_read_concentration_with_arguments :
    decodeTableWord 72 0xFF0186000000000100 = some (.build 0x86 #v[0, 0, 0, 0, 1]) := by decide
theorem test_decode_frame_raw_code :
    decodeTableWord 72 0xFF0100FFFFFFFFFF04 = some (.build 0x00 #v[0xFF, 0xFF, 0xFF, 0xFF, 0xFF]) := by decide
theorem test_decode_frame_refused_by_name :
    decodeError? (.frame 0xFE0186000000000079) = some .badStartMarker ∧
    decodeError? (.frame 0xFF0286000000000079) = some .badDeviceId ∧
    decodeError? (.call (.append 0)) = some .notACall := by decide
theorem test_decode_widths : decodeTableWord 16 0 = none ∧ decodeTableWord 28 0x10000000 = none := by decide

/-! ## Single steps of the block (V18 to V45) -/

theorem test_rst_v18 : blockOf (step ((block .await 4 7 false).withFetchWord 28 0x8000000)) =
    some (.idle, 0, 0, false, answer) := by decide
theorem test_rst_v21 : blockOf (exec .rst (block .await 4 8 true)) = some (.idle, 0, 0, false, answer) := by decide
theorem test_arm_v25 : blockOf (step ((block .failedIntegrity 9 500 false).withFetchWord 28 0x7FFFC00)) =
    some (.await, 0, 65535, false, answer) := by decide
theorem test_arm_v29 : blockOf (exec (.arm 5 (some 0xB0) true) (block .await 3 9 true #v[0xFF, 1, 4, 0, 0, 0, 0, 0, 0])) =
    some (.await, 4, 8, true, #v[0xFF, 1, 4, 0xB0, 0, 0, 0, 0, 0]) := by decide
theorem test_tick_v31 : blockOf (exec .tick (block .await 0 0 false)) = some (.failedTimedOut, 0, 0, false, answer) := by
  decide
theorem test_tick_v33 : blockOf (exec .tick (block .done 9 5 false)) = some (.done, 9, 4, false, answer) := by decide
theorem test_rxb_v35 : blockOf (exec (.rxb 0x55 false) (block .await 7 1000 false)) =
    some (.await, 8, 1000, false, #v[0xFF, 1, 4, 0xB0, 0, 0, 0, 0x55, 0x4B]) := by decide
theorem test_rxb_v38 : blockOf (exec (.rxb 0x4B true) (block .await 8 1 false)) = some (.done, 9, 0, false, answer) := by
  decide
theorem test_rxn_v42 : blockOf (exec .rxn (block .await 4 2 false)) = some (.await, 4, 2, false, answer) := by decide
theorem test_nop_v43 : blockOf (exec .nop (block .await 4 0 false)) = some (.failedTimedOut, 0, 0, false, answer) := by
  decide
theorem test_timeout_v39 : blockOf (exec .timeout (block .await 8 0 false)) =
    some (.failedTimedOut, 0, 0, false, answer) := by decide
theorem test_append_v34 : blockOf (exec (.append 0xEE) (block .await 0 1000 false)) =
    some (.await, 1, 1000, false, #v[0xEE, 1, 4, 0xB0, 0, 0, 0, 0, 0x4B]) := by decide
theorem test_validate_v36 : blockOf (exec (.validate 0x4B) (block .await 8 1000 false)) =
    some (.done, 9, 1000, false, answer) := by decide
theorem test_validate_v37 : blockOf (exec (.validate 0x4A) (block .await 8 1000 false)) =
    some (.failedIntegrity, 9, 1000, false, #v[0xFF, 1, 4, 0xB0, 0, 0, 0, 0, 0x4A]) := by decide
theorem test_out_words :
    packOut (out (block .await 3 9 true).fcv (unpackIn 0)) = 0x89 ∧
    packOut (out (block .await 3 9 false).fcv (unpackIn 0x00003FE)) = 0x8A ∧
    packOut (out (block .failedTimedOut 0 0 false).fcv (unpackIn 0x0000200)) = 0x1A0 ∧
    packOut (out (block .failedIntegrity 9 12 false).fcv (unpackIn 0)) = 0x230 ∧
    packOut (out (block .done 9 3 false).fcv (unpackIn 0)) = 0x3FC0412C0000000012D04 := by decide

/-! ## Checksum, builder, frames (V1 to V17, S1 to S3) -/

theorem test_chk_v1_v2_v8 :
    chk #v[0, 0, 0, 0, 0, 0, 0, 0] = 0xFF ∧ chk #v[0xFF, 0xFF, 0xFF, 0xFF, 0xFF, 0xFF, 0xFF, 0xFF] = 0x07 ∧
    chk #v[0, 0, 0, 0, 0, 0, 0, 0xFF] = 0x00 := by decide
theorem test_chk_s3 : hostOf (exec (.chk #v[0xFF, 0x01, 0x88, 0x07, 0xD0, 0, 0, 0]) State.reset) =
    some ([], .idle, .byte 0xA0, []) := by decide
theorem test_wf_v10 :
    wf [0xFF, 0x01, 0x86, 0, 0, 0, 0, 0, 0x79] = true ∧ wf [0xFF, 0x01, 0x86, 0, 0, 0, 0, 0, 0x7A] = false ∧
    wf [0xFF, 0x01, 0x86, 0, 0, 0, 0, 0] = false ∧ wf [0, 0, 0, 0, 0, 0, 0, 0, 0xFF] = true ∧
    wf [0, 0, 0, 0, 0, 0, 0, 0, 0xFF, 0xFF] = false := by decide
theorem test_build_v17 : hostOf (exec (.build 0x00 #v[0xFF, 0xFF, 0xFF, 0xFF, 0xFF]) State.reset) =
    some ([], .idle, .frame #v[0xFF, 0x01, 0x00, 0xFF, 0xFF, 0xFF, 0xFF, 0xFF, 0x04], []) := by decide
theorem test_fReadConcentration_v11 : (next? (exec .fReadConcentration State.reset)).map (fun s => frameBits s.scratch) =
    some 0xFF0186000000000079 := by decide
theorem test_fCalibrateZeroPoint_v12 :
    (next? (exec (.fCalibrateZeroPoint zeroArgs) State.reset)).map (fun s => frameBits s.scratch) =
      some 0xFF0187000000000078 := by decide
theorem test_fCalibrateSpanPoint_v13 :
    (next? (exec (.fCalibrateSpanPoint #v[0x07, 0xD0, 0, 0, 0]) State.reset)).map (fun s => frameBits s.scratch) =
      some 0xFF018807D0000000A0 := by decide
theorem test_fSetAutoCalibration_v14_v15 :
    (next? (exec (.fSetAutoCalibration true) State.reset)).map (fun s => frameBits s.scratch) =
      some 0xFF0179A000000000E6 ∧
    (next? (exec (.fSetAutoCalibration false) State.reset)).map (fun s => frameBits s.scratch) =
      some 0xFF0179000000000086 := by decide
theorem test_fSetDetectionRange_v16 :
    (next? (exec (.fSetDetectionRange zeroArgs) State.reset)).map (fun s => frameBits s.scratch) =
      some 0xFF0199000000000066 := by decide

/-! ## The host's procedures (V58 to V62, S6 to S9) -/

/-- A sequence of words of the other agents, from the Bool that is evaluated. -/
theorem env_of_all {ws : List (BitVec 28)} (h : ws.all envWord = true) : ∀ w ∈ ws, envWord w = true := List.all_eq_true.1 h

/-- The nine words `RXB` of the answer, then a line of the caller's. -/
def answerLines : List Line := (rxWords answer).map .word ++ [.call .setRange]

theorem test_txb : hostOf (exec (.txb 0xFF ⟨true, [.quiet]⟩) State.reset) = some ([0xFF], .idle, .ok, []) ∧
    hostOf (exec (.txb 0xFF ⟨false, [.quiet]⟩) State.reset) = some ([], .idle, .err, []) := by decide
/-- R161: the words of a blocked write are the other agents'; V34 and V30 under a write. -/
theorem test_txb_words_of_the_other_agents :
    blockOf (exec (.txb 0x86 ⟨true, [⟨some 0xFF, false⟩, ⟨none, true⟩]⟩) (block .await 0 1 false)) =
      some (.await, 1, 0, false, answer) := by decide
theorem test_send_third_write_rejected : hostOf (exec (.send answer (.quiet (some 2))) State.reset) =
    some ([0xFF, 0x01], .failed .writeFailed, .error .writeFailed, []) := by decide
theorem test_send_accepted : hostOf (exec (.send answer (.quiet none)) State.reset) =
    some ([0xFF, 0x01, 0x04, 0xB0, 0, 0, 0, 0, 0x4B], .sending, .ok, []) := by decide
theorem test_collect_s6 : hostOf (exec (.collect ⟨1000, .quiet⟩) { State.reset with lines := answerLines }) =
    some ([], .done, .frame answer, [.call .setRange]) := by decide
/-- V29: a refused ARM does not stop the byte or the tick. -/
theorem test_collect_in_await_v29 :
    blockOf (exec (.collect ⟨5, ⟨some 0xB0, true⟩⟩) (block .await 3 9 false #v[0xFF, 1, 4, 0, 0, 0, 0, 0, 0])) =
      some (.await, 4, 8, true, #v[0xFF, 1, 4, 0xB0, 0, 0, 0, 0, 0]) := by decide
theorem test_readConcentration_s6 : hostOf (exec (.readConcentration .quiet) { State.reset with lines := answerLines }) =
    some ([0xFF, 0x01, 0x86, 0, 0, 0, 0, 0, 0x79], .done, .ppm 1200, [.call .setRange]) := by decide
theorem test_readConcentration_v58 : hostOf (exec (.readConcentration ⟨.quiet (some 2), .quiet⟩) State.reset) =
    some ([0xFF, 0x01], .failed .writeFailed, .error .writeFailed, []) := by decide
theorem test_setAutoCalibration_v59 : hostOf (exec (.setAutoCalibration true (.quiet none)) State.reset) =
    some ([0xFF, 0x01, 0x79, 0xA0, 0, 0, 0, 0, 0xE6], .done, .unit, []) := by decide
theorem test_setAutoCalibration_v60 : hostOf (exec (.setAutoCalibration false (.quiet none)) State.reset) =
    some ([0xFF, 0x01, 0x79, 0, 0, 0, 0, 0, 0x86], .done, .unit, []) := by decide
theorem test_setRange_v61 : hostOf (exec .setRange State.reset) = some ([], .done, .unit, []) := by decide
theorem test_expand_read_concentration :
    (expand Params.default .readConcentration).length = 10 ∧ expand Params.default .setRange = [] ∧
    expand Params.default (.wait 2) = [.word 1, .word 1] ∧
    (expand Params.default (.rxGood #v[0xFF, 1, 4, 0xB0, 0, 0, 0, 0])) = (rxWords answer).map .word := by decide

/-! ## Witnesses: the hypotheses of each statement, met together -/

theorem witness_StepRunsTheDecodedLine :
    (block .idle 0 0 false).lines = [] ∧
    decodeLine Params.default (.word 1) = .ok .tick ∧ ((block .idle 0 0 false).withFetchWord 28 1).lines = [.word 1] ∧
    decodeLine Params.default (.call .tick) = .error .notACall ∧
    refusal? (step { State.reset with lines := [.call .tick] }) = some .undecodable := by
  refine ⟨rfl, rfl, rfl, rfl, by decide⟩
theorem witness_EncodeThenDecode : Params.default.wf = true ∧ Instr.wf (.arm 65535 (some 0xFF) true) = true ∧
    Instr.wf (.fSetDetectionRange #v[0xFF, 0xFF, 0xFF, 0xFF, 0xFF]) = true ∧ Instr.wf .nop = true := by decide
theorem witness_WordLiesInItsRow : (0x0000200 : BitVec 28).getLsbD 27 = false ∧
    (0x7FFFDFF : BitVec 28).getLsbD 27 = false := by decide
theorem witness_DecodingKeepsExactlyTheReadBits : (unpackIn 0x4001F55).rst = false ∧ (unpackIn 0x4001F55).arm = true ∧
    (unpackIn 0x4001F55).rxv = true := by decide
theorem witness_ChecksumEquivalentForms : (8 : Nat) ≤ 8 ∧
    (#v[1, 2, 3, 4, 5, 6, 7, 8] : Payload).toList.Perm (#v[2, 1, 3, 4, 5, 6, 7, 8] : Payload).toList :=
  ⟨Nat.le_refl 8, List.Perm.swap 2 1 _⟩
theorem witness_WhatTheChecksumDetects : wf answer.toList = true ∧ (0x4A : Byte) ≠ answer[8] ∧ (0 : Byte) ≠ answer[0] := by
  decide
theorem witness_WhatTheChecksumDetects_permuted :
    (#v[0x01, 0xFF, 0x04, 0xB0, 0, 0, 0, 0, 0x4B] : Frame).toList.Perm answer.toList := List.Perm.swap 0xFF 1 _
theorem witness_BuiltFrameLoopsBack :
    let ws := rxWords (buildFrame 0x86 zeroArgs)
    faulted (block .await 0 1 false) = false ∧ (block .await 0 1 false).fcv.st = .await ∧ (block .await 0 1 false).fcv.fill = 0 ∧
    (∀ w ∈ ws, envWord w = true) ∧ ws.filterMap (fun w => rxOf (unpackIn w)) = (buildFrame 0x86 zeroArgs).toList ∧
    tickCount ws < (block .await 0 1 false).fcv.cnt.toNat :=
  ⟨by decide, by decide, by decide, env_of_all (by decide), by decide, by decide⟩
theorem witness_ResetClearsAllButTheBuffer : (0x8000000 : BitVec 28).getLsbD 27 = true ∧
    (0xFFFFFFF : BitVec 28).getLsbD 27 = true := by decide
theorem witness_ArmAcceptedOutsideAwait : (block .done 9 3 true).fcv.st ≠ .await ∧ (block .idle 0 0 false).fcv.st ≠ .await ∧
    (0x00003FE : BitVec 28).getLsbD 27 = false := by decide
theorem witness_ArmRefusedInAwait : (block .await 8 0 false).fcv.st = .await ∧ (block .await 8 0 false).fcv.fill ≤ 8 ∧
    (0x0000001 : BitVec 28).getLsbD 27 = false ∧
    nextHas (exec (.arm 5 none false) (block .await 8 0 false))
      (fun t => (next? (exec (decodeIn 0x0000001) t)).isSome) = true := by decide
theorem witness_TickCountsDownInEveryState : (unpackIn 0x0000001).rst = false ∧ (unpackIn 0x0000001).tick = true ∧
    (block .await 0 1 false).fcv.cnt = 1#16 ∧ (block .done 9 0 false).fcv.cnt = 0#16 ∧
    (next? (exec (decodeIn 0x0000001) (block .await 0 1 false))).isSome = true ∧
    (unpackIn 0x4000001).arm = true ∧ (next? (exec (decodeIn 0x4000001) (block .done 9 0 false))).isSome = true ∧
    (unpackIn 0x0000000).tick = false := by decide
theorem witness_OfferedByteByState :
    ((block .await 0 1 false).fcv.st = .await ∧ (block .await 0 1 false).fcv.cnt ≠ 0#16 ∧
      (block .await 0 1 false).fcv.fill ≤ 7 ∧ (block .await 7 1 false).fcv.fill ≤ 7) ∧
    ((block .await 8 1 false).fcv.st = .await ∧ (block .await 8 1 false).fcv.cnt ≠ 0#16 ∧
      (block .await 8 1 false).fcv.fill = 8) ∧
    ((block .await 8 0 false).fcv.st = .await ∧ (block .await 8 0 false).fcv.cnt = 0#16) ∧
    (block .failedTimedOut 0 1 false).fcv.st ≠ .await := by decide
theorem witness_TimeoutWinsOverAnyByte : (0x4000297 : BitVec 28).getLsbD 27 = false ∧
    (block .await 8 0 false).fcv.st = .await ∧ (block .await 8 0 false).fcv.cnt = 0#16 := by decide
theorem witness_AppendStoresAtFill : (block .await 7 1 true).fcv.st = .await ∧ (block .await 7 1 true).fcv.cnt ≠ 0#16 ∧
    (block .await 7 1 true).fcv.fill ≤ 7 := by decide
theorem witness_ValidateJudgesTheNinthByte : (block .await 8 1 false).fcv.st = .await ∧
    (block .await 8 1 false).fcv.cnt ≠ 0#16 ∧ (block .await 8 1 false).fcv.fill = 8 ∧
    (0x4B : Byte) = chk (payload (block .await 8 1 false).fcv.buf) ∧
    (0x4A : Byte) ≠ chk (payload (block .await 8 1 false).fcv.buf) := by decide
theorem witness_TransitionNotTakenChangesNothing :
    ¬((block .await 0 1 false).fcv.st = .await ∧ (block .await 0 1 false).fcv.cnt = 0#16) ∧
    ¬((block .await 8 1 false).fcv.st = .await ∧ (block .await 8 1 false).fcv.cnt ≠ 0#16 ∧
      (block .await 8 1 false).fcv.fill ≤ 7) ∧
    ¬((block .await 7 1 false).fcv.st = .await ∧ (block .await 7 1 false).fcv.cnt ≠ 0#16 ∧
      (block .await 7 1 false).fcv.fill = 8) := by decide
theorem witness_EveryWordFollowsTheTransferTable :
    ((block .await 8 1 false).fcv.st = .await → (block .await 8 1 false).fcv.fill ≤ 8) ∧
    ((block .done 9 1 false).fcv.st = .await → (block .done 9 1 false).fcv.fill ≤ 8) := by decide
theorem witness_InputWordsLeaveTheHostAlone :
    (next? (exec (decodeIn 0x0000296) (block .await 8 1 false))).isSome = true ∧ waiting (block .await 8 1 false) = false ∧
    nextHas (exec (decodeIn 0x0000200) (awaiting .collect (block .await 0 1 false)))
      (fun t => decide (t.fcv.st = .await)) = true := by decide
theorem witness_BufferFaultOnlyAtOffsetNine :
    rxTake (block .await 9 1 false).fcv (unpackIn 0x0000200) = true ∧
    fault? (exec (.rxb 0 false) (block .await 9 1 false)) = some .bufferOffset := by decide
theorem witness_FaultBusyIsSticky :
    (next? (exec (decodeIn 0x8000000) (block .await 3 9 true))).isSome = true ∧ (unpackIn 0x8000000).rst = true ∧
    (next? (exec (decodeIn 0x4001400) (block .await 3 9 false))).isSome = true ∧ (unpackIn 0x4001400).rst = false ∧
    (unpackIn 0x4001400).arm = true ∧ (block .await 3 9 false).fcv.st = .await ∧
    (next? (exec (decodeIn 0x4001400) (block .done 9 9 true))).isSome = true ∧ (block .done 9 9 true).fcv.st ≠ .await := by
  decide
theorem witness_FaultBusyChangesNothingElse :
    (next? (exec (.send answer (.quiet none)) (block .await 3 9 false))).isSome = true ∧
    (next? (runWords [0x4001400, 0x0000200] (block .await 3 9 false))).isSome = true ∧
    (next? (runSteps 2 { block .await 3 9 true with lines := [.word 0x4001400, .call .setRange] })).isSome = true := by decide
theorem witness_OnlyABrokenDutyFaultsARun :
    faulted (block .await 3 9 false) = false ∧
    (next? (exec (decodeIn 0x4001400) (block .await 3 9 false))).isSome = true ∧
    dutyKept (unpackIn 0x4001400) (block .await 3 9 false).fcv = false ∧
    dutyKept (unpackIn 0x4001400) (block .done 9 9 false).fcv = true ∧
    (next? (exec (.txb 0xFF ⟨true, []⟩) (block .await 3 9 false))).isSome = true := by decide
theorem witness_OnlyABrokenDutyFaultsARun_words : (∀ w ∈ rxWords answer, envWord w = true) ∧
    (next? (runWords (rxWords answer) (block .await 0 9 false))).isSome = true := ⟨env_of_all (by decide), by decide⟩
theorem witness_ReliedStepFaultsOnABrokenDuty :
    faulted (block .await 3 9 true) = true ∧ faulted (block .await 8 9 false) = false ∧
    (block .await 8 9 false).fcv.fill ≤ 8 ∧ ((block .await 8 9 false).withFetchWord 28 0x4001400).lines = [.word 0x4001400] ∧
    dutyKept (unpackIn 0x4001400) (block .await 8 9 false).fcv = false ∧
    fault? (reliedStep ((block .await 8 9 false).withFetchWord 28 0x4001400)) = some .hostDutyBroken ∧
    (next? (reliedStep ((block .await 8 9 false).withFetchWord 28 0x0000296))).isSome = true := by decide
/-- COLLECT 1000, one byte, then ARM 5 and RST: the machine's step ends unfaulted, and is not relied on. -/
theorem witness_ReliedStepFaultsOnABrokenDuty_cleared :
    faulted (block .done 9 0 false) = false ∧ waiting (block .done 9 0 false) = false ∧ (block .done 9 0 false).fcv.st ≠ .await ∧
    envWord (rxbWord 0xFF) = true ∧ documentCollect 1000 [] ([rxbWord 0xFF].map pollView) = none ∧
    (unpackIn 0x4001400).rst = false ∧ (unpackIn 0x4001400).arm = true ∧
    nextHas (step { block .done 9 0 false with
      lines := .call (.collect ⟨1000, .quiet⟩) :: ([rxbWord 0xFF].map .word ++ [.word 0x4001400, .word 0x8000000]) })
      (fun t => !faulted t) = true ∧
    fault? (reliedStep { block .done 9 0 false with
      lines := .call (.collect ⟨1000, .quiet⟩) :: ([rxbWord 0xFF].map .word ++ [.word 0x4001400, .word 0x8000000]) }) =
      some .hostDutyBroken := by decide
/-- The same COLLECT over a whole answer is relied on; and a COLLECT whose own ARM is refused is not, though RST follows. -/
theorem witness_ReliedStepFaultsOnABrokenDuty_kept :
    nextHas (reliedStep { block .done 9 0 false with lines := .call (.collect ⟨1000, .quiet⟩) :: answerLines })
      (fun t => decide (t.fcv.st = .done)) = true ∧
    fault? (reliedStep { block .await 3 9 false with lines := [.call (.collect ⟨1000, .quiet⟩), .word 0x8000000] }) =
      some .hostDutyBroken ∧
    (next? (reliedWords [0x4001400, 0x0000001] (block .done 9 0 false))).isSome = true := by decide
theorem witness_RxTakeMarksTheTakenByte :
    (next? (exec (decodeIn 0x0000296) (block .await 8 1 false))).isSome = true ∧
    rxTake (block .await 8 1 false).fcv (unpackIn 0x0000296) = true ∧
    (next? (exec (decodeIn 0x0000296) (block .await 8 0 false))).isSome = true ∧
    rxTake (block .await 8 0 false).fcv (unpackIn 0x0000296) = false := by decide
theorem witness_TerminalStateHolds : terminal (block .done 9 1 false).fcv = true ∧
    terminal (block .failedTimedOut 0 0 false).fcv = true ∧ terminal (block .failedIntegrity 9 1 true).fcv = true ∧
    envWord 0x00002AB = true := by decide
theorem witness_FrameShownOnlyInDone : (block .done 9 1 false).fcv.st = .done ∧
    (block .failedIntegrity 9 1 false).fcv.st ≠ .done := by decide
theorem witness_TruncationLooksLikeSilence :
    (block .failedTimedOut 0 7 false).fcv.st = .failedTimedOut ∧
    (block .failedTimedOut 0 0 false State.reset.fcv.buf).fcv.st = .failedTimedOut ∧
    (block .failedTimedOut 0 7 false).fcv.faultBusy = (block .failedTimedOut 0 0 false State.reset.fcv.buf).fcv.faultBusy := by
  decide
theorem witness_StepKeepsTheInvariant : Inv ((block .done 9 1 true).withFetchWord 28 0x4001400) ∧
    (next? (step ((block .done 9 1 true).withFetchWord 28 0x4001400))).isSome = true ∧
    Inv (awaiting .readConcentration ((block .await 8 1 false).withFetchWord 28 0x0000296)) ∧
    (next? (step (awaiting .readConcentration ((block .await 8 1 false).withFetchWord 28 0x0000296)))).isSome = true := by
  decide
theorem witness_InvariantExcludesTheBufferFault : Inv (block .await 8 1 false) := by decide
theorem witness_TransmitStreamOnlyGrows :
    (next? (step { State.reset with lines := [.call (.txb 0xFF ⟨true, [.quiet]⟩)] })).isSome = true ∧
    nextHas (exec (.txb 0xFF ⟨true, [.quiet]⟩) State.reset)
      (fun t => decide (t.tx ≠ State.reset.tx)) = true := by decide
theorem witness_CollectionRefinesTheDocument : faulted (block .failedIntegrity 9 5 false) = false ∧
    (block .failedIntegrity 9 5 false).fcv.st ≠ .await ∧
    (∀ w ∈ rxWords answer, envWord w = true) := ⟨by decide, by decide, env_of_all (by decide)⟩
theorem witness_BytesAreStoredInOrder : faulted (block .idle 0 0 false) = false ∧ (block .idle 0 0 false).fcv.st ≠ .await ∧
    (∀ w ∈ (rxWords answer).take 8, envWord w = true) ∧
    nextHas (runWords (assembleWord false (some 1) none false :: (rxWords answer).take 8) (block .idle 0 0 false))
      (fun t => decide (t.fcv.st = .await)) = true :=
  ⟨by decide, by decide, env_of_all (by decide), by decide⟩
theorem witness_CollectionEndsAfterItsTicks : faulted (block .done 9 5 false) = false ∧ (block .done 9 5 false).fcv.st ≠ .await ∧
    (next? (exec (.arm 2 none false) (block .done 9 5 false))).isSome = true ∧
    (2 : BitVec 16).toNat ≤ tickCount [0x0000001, 0x0000203] ∧
    (next? (exec (.arm 0 none false) (block .done 9 5 false))).isSome = true ∧ envWord 0x00003FE = true ∧
    nextHas (reliedWords [0x0000001, 0x0000203, 0] (block .await 0 2 false)) (fun t => decide (t.fcv.st ≠ .await)) = true ∧
    fault? (reliedWords [0x0000001, 0x4001400] (block .await 0 2 false)) = some .hostDutyBroken := by decide
theorem witness_CollectionsAreIndependent : (block .failedTimedOut 0 5 false).fcv.st ≠ .await ∧
    State.reset.fcv.st ≠ .await ∧ (block .failedTimedOut 0 5 false).fcv.faultBusy = false ∧
    State.reset.fcv.faultBusy = false ∧
    (next? (reliedWords [assembleWord false (some 1) none false, 1, 0, 0x4001400] State.reset)).isSome = true ∧
    fault? (reliedWords [assembleWord false (some 1) none false, 0x4001400, 0x8000000] State.reset) = some .hostDutyBroken := by
  decide
theorem witness_WritesLeaveAnIdleBlockAlone : (block .done 9 5 true).fcv.st ≠ .await := by decide
theorem witness_WriteByteIsTheTransportsChoice : waiting (block .await 8 1 false) = false ∧
    faulted (block .await 8 1 false) = false ∧ (block .await 8 1 false).fcv.fill ≤ 8 := by decide
theorem witness_SendStopsAtTheFirstRejectedWrite : waiting (block .done 9 5 false) = false ∧
    faulted (block .done 9 5 false) = false ∧
    ((block .done 9 5 false).fcv.st = .await → (block .done 9 5 false).fcv.fill ≤ 8) := by decide
theorem witness_SetAutoCalibrationNeverCollects : waiting (block .await 0 0 false) = false ∧
    faulted (block .await 0 0 false) = false ∧
    ((block .await 0 0 false).fcv.st = .await → (block .await 0 0 false).fcv.fill ≤ 8) := by decide
theorem witness_SetRangeIsANoOp : waiting (block .await 3 9 false) = false := by decide
theorem witness_ReadConcentrationWriteFailure : waiting State.reset = false ∧ faulted State.reset = false ∧
    (State.reset.fcv.st = .await → State.reset.fcv.fill ≤ 8) := by decide

/-- The script of the three witnesses below: the words, then a line of the caller's. -/
def calling (ws : List (BitVec 28)) : State := { State.reset with lines := ws.map .word ++ [.call .setRange] }

/-- The frame, the corruption and the timeout of S6, S8 and S7, each over its words and no sooner. -/
theorem witness_CollectReturnsTheDocumentsResult :
    waiting (calling (rxWords answer)) = false ∧ faulted (calling (rxWords answer)) = false ∧
    (calling (rxWords answer)).fcv.st ≠ .await ∧
    (calling (rxWords answer)).lines = (rxWords answer).map .word ++ [.call .setRange] ∧
    (∀ w ∈ rxWords answer, envWord w = true) ∧
    documentCollect 1000 [] ((rxWords answer).map pollView) = some (.frame answer.toList) ∧
    (∀ k < (rxWords answer).length, documentCollect 1000 [] (((rxWords answer).take k).map pollView) = none) :=
  ⟨by decide, by decide, by decide, rfl, env_of_all (by decide), by decide, by decide⟩
theorem witness_CollectReturnsTheDocumentsResult_integrityFailure :
    let ws := rxWords #v[0xFF, 0x01, 0x04, 0xB0, 0, 0, 0, 0, 0x4A]
    waiting (calling ws) = false ∧ faulted (calling ws) = false ∧ (calling ws).fcv.st ≠ .await ∧
    (calling ws).lines = ws.map .word ++ [.call .setRange] ∧ (∀ w ∈ ws, envWord w = true) ∧
    documentCollect (1000 : BitVec 16).toNat [] (ws.map pollView) = some .integrityFailure ∧
    (∀ k < ws.length, documentCollect (1000 : BitVec 16).toNat [] ((ws.take k).map pollView) = none) :=
  ⟨by decide, by decide, by decide, rfl, env_of_all (by decide), by decide, by decide⟩
theorem witness_CollectReturnsTheDocumentsResult_timedOut :
    let ws : List (BitVec 28) := [0x0000001, 0x00003FE]
    waiting (calling ws) = false ∧ faulted (calling ws) = false ∧ (calling ws).fcv.st ≠ .await ∧
    (calling ws).lines = ws.map .word ++ [.call .setRange] ∧ (∀ w ∈ ws, envWord w = true) ∧
    documentCollect (1 : BitVec 16).toNat [] (ws.map pollView) = some .timedOut ∧
    (∀ k < ws.length, documentCollect (1 : BitVec 16).toNat [] ((ws.take k).map pollView) = none) :=
  ⟨by decide, by decide, by decide, rfl, env_of_all (by decide), by decide, by decide⟩

/-- Two ticks with words between and before them, then a word with a late byte. -/
theorem witness_SilenceTimesOutAfterTheLastTick :
    let ws : List (BitVec 28) := [0x0000000, 0x0000001, 0x0000000, 0x0000001]
    let s := calling (ws ++ [0x00003FE])
    waiting s = false ∧ faulted s = false ∧ s.fcv.st ≠ .await ∧
    (∀ v ∈ ws, envWord v = true ∧ (unpackIn v).rxv = false) ∧ tickCount ws = (2 : BitVec 16).toNat ∧
    (∀ k < ws.length, tickCount (ws.take k) < (2 : BitVec 16).toNat) ∧ envWord 0x00003FE = true ∧
    s.lines = ws.map .word ++ .word 0x00003FE :: [.call .setRange] := by
  refine ⟨by decide, by decide, by decide, ?_, by decide, by decide, by decide, rfl⟩
  simp only [List.mem_cons, List.not_mem_nil, or_false, forall_eq_or_imp, forall_eq]
  decide
theorem witness_WaitGoesOnUntilTheBlockIsDone :
    (waiting State.reset = false ∧ faulted State.reset = false ∧ State.reset.fcv.st ≠ .await ∧ State.reset.lines = []) ∧
    envWord 0x0000296 = true ∧ faulted (awaiting .readConcentration (block .await 8 1 false)) = false ∧
    nextHas (exec (decodeIn 0x0000296) (awaiting .readConcentration (block .await 8 1 false)))
      (fun t => decide (resultOf t.fcv = some (.frame answer.toList))) = true ∧
    (waiting (block .await 8 1 false) = false ∧ (block .await 8 1 false).fcv.fill ≤ 8 ∧
      (block .await 8 1 false).lines = []) := by decide
theorem witness_ReentrantCallsFault : waiting (awaiting .collect (block .await 0 9 false)) = true ∧
    fault? (exec .setRange (awaiting .collect (block .await 0 9 false))) = some .reentrantOperation := by decide
theorem witness_ReadConcentrationMatchesItsExpansion : waiting (block .done 9 4 false) = false ∧
    faulted (block .done 9 4 false) = false ∧
    (block .done 9 4 false).fcv.st ≠ .await := by decide

end Sys2Proof.Tests
end

section
/-! The frame of an input word, the one fault it can raise, and the fault of a reentrant call (spec/00_scope.md R4, R6, R10, R12). -/

namespace Sys2Proof.Machine

open Sys2Proof

/-! ## What one clock cycle can answer -/

theorem offsetMissing_iff {p : InPorts} {f : Fcv} : offsetMissing p f = true ↔ rxTake f p = true ∧ f.fill = 9 := by
  simp [offsetMissing]

theorem clockCycle_eq_fault_iff {p : InPorts} {s : State} :
    clockCycle p s = .fault .bufferOffset ↔ offsetMissing p s.fcv = true := by
  rw [clockCycle_eq]
  split <;> simp [*]

theorem clockCycle_ne_refused (p : InPorts) (s : State) (r : Refusal) : clockCycle p s ≠ .refused r := by
  rw [clockCycle_eq]
  split <;> simp

/-- Where no wait ends, a cycle changes the block and the clock alone. -/
theorem clocked_of_no_wait_ending {p : InPorts} {s : State} (h : waiting s = false ∨ (stepFcv p s.fcv).st = .await) :
    clocked p s = { s with fcv := stepFcv p s.fcv, clk := s.clk + 1 } := by
  rcases h with hw | ha
  · exact clocked_of_not_waiting hw p
  · exact settle_of_await ha

/-- Settles O29: an input word is one clock cycle, which touches the session only where it ends a wait. -/
theorem inputWordsLeaveTheHostAlone : Obligations.InputWordsLeaveTheHostAlone := by
  intro w s t h
  rw [exec_decodeIn] at h
  obtain ⟨-, rfl⟩ := clockCycle_next h
  refine ⟨clocked_tx .., clocked_scratch .., clocked_params .., clocked_lines .., fun hend => ?_⟩
  rw [clocked_fcv] at hend
  rw [clocked_of_no_wait_ending hend]
  exact ⟨rfl, rfl⟩

/-- Settles O30: an input word is one clock cycle, and a cycle stops only on the offset that cannot be formed. -/
theorem bufferFaultOnlyAtOffsetNine : Obligations.BufferFaultOnlyAtOffsetNine := by
  intro w s
  rw [exec_decodeIn]
  exact ⟨clockCycle_eq_fault_iff.trans offsetMissing_iff, clockCycle_ne_refused _ s⟩

/-! ## Calls begun while an operation waits -/

theorem hostCall_of_waiting {s : State} (h : waiting s = true) (o : Host.Outcome State Fault Refusal) :
    hostCall s o = .fault .reentrantOperation := by simp [hostCall, h]

/-- Settles O58: each of the six meanings is a `hostCall`, which faults before it does anything. -/
theorem reentrantCallsFault : Obligations.ReentrantCallsFault := by
  rintro s i hw (⟨b, w, rfl⟩ | ⟨f, ws, rfl⟩ | ⟨a, rfl⟩ | ⟨x, rfl⟩ | ⟨e, ws, rfl⟩ | rfl)
  all_goals exact hostCall_of_waiting hw _

end Sys2Proof.Machine
end

section
/-! The step of the block by cases, and the fields of the block that the state rules speak of: `fault_busy`, the byte that `rx_take`
marks, the outputs (spec/10_state.md R25, R29, R32, R36). -/

namespace Sys2Proof.Machine

open Sys2Proof

/-! ## The step of the block by cases (R120) -/

/-- What a step does after its poll: the tick of the word, and a refused ARM. -/
def afterPoll (p : InPorts) (f : Fcv) : Fcv := (if p.arm then armRefuse else id) ((if p.tick then countTick else id) f)

@[simp] theorem afterPoll_buf (p : InPorts) (f : Fcv) : (afterPoll p f).buf = f.buf := by
  cases ha : p.arm <;> cases ht : p.tick <;> simp [afterPoll, ha, ht]
@[simp] theorem afterPoll_fill (p : InPorts) (f : Fcv) : (afterPoll p f).fill = f.fill := by
  cases ha : p.arm <;> cases ht : p.tick <;> simp [afterPoll, ha, ht]
@[simp] theorem afterPoll_st (p : InPorts) (f : Fcv) : (afterPoll p f).st = f.st := by
  cases ha : p.arm <;> cases ht : p.tick <;> simp [afterPoll, ha, ht]
@[simp] theorem afterPoll_faultBusy (p : InPorts) (f : Fcv) : (afterPoll p f).faultBusy = (f.faultBusy || p.arm) := by
  cases ha : p.arm <;> cases ht : p.tick <;> simp [afterPoll, ha, ht]

/-- A step is a reset, an accepted ARM, or a poll with what follows it. -/
theorem stepFcv_cases (p : InPorts) (f : Fcv) :
    (p.rst = true ∧ stepFcv p f = resetFcv f) ∨
    (p.rst = false ∧ p.arm = true ∧ f.st ≠ .await ∧ stepFcv p f = armAccept p.dur f) ∨
    (p.rst = false ∧ (p.arm = false ∨ f.st = .await) ∧ stepFcv p f = afterPoll p (poll (rxOf p) f)) := by
  by_cases hr : p.rst = true
  · exact .inl ⟨hr, stepFcv_rst hr f⟩
  · have hr : p.rst = false := by simpa using hr
    by_cases ha : p.arm = true ∧ f.st ≠ .await
    · exact .inr (.inl ⟨hr, ha.1, ha.2, stepFcv_armAccept hr ha.1 ha.2⟩)
    · have ha : p.arm = false ∨ f.st = .await := by simpa [Decidable.or_iff_not_imp_left] using ha
      exact .inr (.inr ⟨hr, ha, stepFcv_poll hr ha⟩)

/-- A poll does nothing, runs into the deadline, or takes the byte it is offered. -/
theorem poll_cases (rx : Option Byte) (f : Fcv) :
    ((f.st ≠ .await ∨ rx = none) ∧ poll rx f = f) ∨
    (f.st = .await ∧ f.cnt = 0#16 ∧ poll rx f = raiseError .timedOut f) ∨
    (f.st = .await ∧ f.cnt ≠ 0#16 ∧ ∃ b, rx = some b ∧ poll rx f = takeByte b f) := by
  by_cases h : f.st = .await
  · by_cases hc : f.cnt = 0#16
    · exact .inr (.inl ⟨h, hc, poll_expired h hc rx⟩)
    · cases rx with
      | none => exact .inl ⟨.inr rfl, poll_none hc⟩
      | some b => exact .inr (.inr ⟨h, hc, b, rfl, poll_some h hc b⟩)
  · exact .inl ⟨.inl h, poll_of_not_await h rx⟩

/-! ## `fault_busy` (R25) -/

@[simp] theorem takeByte_faultBusy (b : Byte) (f : Fcv) : (takeByte b f).faultBusy = f.faultBusy := by
  unfold takeByte; split <;> simp

@[simp] theorem poll_faultBusy (rx : Option Byte) (f : Fcv) : (poll rx f).faultBusy = f.faultBusy := by
  obtain ⟨-, h⟩ | ⟨-, -, h⟩ | ⟨-, -, b, -, h⟩ := poll_cases rx f <;> simp [h]

/-- The column of `fault_busy` in the state-transfer table (R132). -/
theorem stepFcv_faultBusy (p : InPorts) (f : Fcv) : (stepFcv p f).faultBusy = nextFaultBusy p f := by
  obtain ⟨hr, h⟩ | ⟨hr, ha, hst, h⟩ | ⟨hr, ha, h⟩ := stepFcv_cases p f
  · simp [h, nextFaultBusy, hr]
  · simp [h, nextFaultBusy, hr, hst]
  · obtain ha | hst := ha
    · simp [h, nextFaultBusy, hr, ha]
    · simp [h, nextFaultBusy, hr, hst]

/-- Settles O31: an input word is one clock cycle, in which the flag takes the value of its column of the transfer table. -/
theorem faultBusyIsSticky : Obligations.FaultBusyIsSticky := by
  intro w s t h
  rw [exec_decodeIn] at h
  obtain ⟨-, rfl⟩ := clockCycle_next h
  rw [clocked_fcv, stepFcv_faultBusy]
  refine ⟨fun hr => ?_, fun hr ha hst => ?_, fun hr hn => ?_⟩
  · simp [nextFaultBusy, hr]
  · simp [nextFaultBusy, hr, ha, hst]
  · simpa [nextFaultBusy, hr] using fun ha hst => absurd ⟨ha, hst⟩ hn

/-! ## The byte that is taken (R29) -/

theorem rxTake_iff {f : Fcv} {p : InPorts} :
    rxTake f p = true ↔ p.rst = false ∧ f.st = .await ∧ f.cnt ≠ 0#16 ∧ p.rxv = true := by
  simp [rxTake, expired, and_assoc]

theorem fill_le_eight_cases : ∀ {n : Fin 10}, n ≠ 9 → n ≤ 7 ∨ n = 8 := by decide

theorem fill_succ_val : ∀ {n : Fin 10}, n ≤ 7 → (n + 1).val = n.val + 1 := by decide

/-- A byte that is taken with an offset left advances `fill`. -/
theorem takeByte_fill_val {f : Fcv} (h : f.fill ≠ 9) (b : Byte) : (takeByte b f).fill.val = f.fill.val + 1 := by
  obtain h7 | h8 := fill_le_eight_cases h
  · rw [takeByte_append h7, appendByte_fill, fill_succ_val h7]
  · rw [takeByte_validate h8, validateByte_fill, h8]; rfl

/-- A byte that is taken with an offset left is stored at the old `fill`, the ninth byte as well. -/
theorem takeByte_buf_getElem {f : Fcv} (h : f.fill ≠ 9) (b : Byte) (i : Fin 9) :
    (takeByte b f).buf[i.val] = if i.val = f.fill.val then b else f.buf[i.val] := by
  obtain h7 | h8 := fill_le_eight_cases h
  · simp [takeByte_append h7, Vector.getElem_setIfInBounds, eq_comm]
  · simp [takeByte_validate h8, Vector.getElem_set, h8, eq_comm]

/-- A step that takes a byte takes the byte of its word; the tick and a refused ARM come after. -/
theorem stepFcv_of_rxTake {p : InPorts} {f : Fcv} (h : rxTake f p = true) :
    stepFcv p f = afterPoll p (takeByte p.rxd f) := by
  obtain ⟨hr, hst, hc, hv⟩ := rxTake_iff.1 h
  have hrx : rxOf p = some p.rxd := by simp [rxOf, hv]
  have hpoll : poll (rxOf p) f = takeByte p.rxd f := by rw [hrx, poll_some hst hc]
  rw [← hpoll]
  exact stepFcv_poll hr (.inr hst)

/-- A step that takes no byte keeps the buffer. -/
theorem stepFcv_buf_of_not_rxTake {p : InPorts} {f : Fcv} (h : rxTake f p = false) : (stepFcv p f).buf = f.buf := by
  obtain ⟨-, hs⟩ | ⟨-, -, -, hs⟩ | ⟨hr, -, hs⟩ := stepFcv_cases p f
  · rw [hs, resetFcv_buf]
  · rw [hs, armAccept_buf]
  · rw [hs, afterPoll_buf]
    obtain ⟨-, hp⟩ | ⟨-, -, hp⟩ | ⟨hst, hc, b, hrx, -⟩ := poll_cases (rxOf p) f
    · rw [hp]
    · rw [hp, raiseTimedOut_buf]
    · have hv : p.rxv = true := by
        by_contra hv
        simp [rxOf, hv] at hrx
      rw [rxTake_iff.2 ⟨hr, hst, hc, hv⟩] at h
      cases h

/-- Settles O35: an input word that completes and takes a byte finds an offset for it, which `offsetMissing` says. -/
theorem rxTakeMarksTheTakenByte : Obligations.RxTakeMarksTheTakenByte := by
  intro w s t h
  rw [exec_decodeIn] at h
  obtain ⟨hm, rfl⟩ := clockCycle_next h
  rw [clocked_fcv]
  refine ⟨rxTake_iff, fun htake => ?_, stepFcv_buf_of_not_rxTake⟩
  have hfill : s.fcv.fill ≠ 9 := fun h9 => by
    rw [offsetMissing_iff.2 ⟨htake, h9⟩] at hm
    cases hm
  rw [stepFcv_of_rxTake htake, afterPoll_fill, afterPoll_buf]
  exact ⟨takeByte_fill_val hfill _, takeByte_buf_getElem hfill _⟩

/-! ## Outputs (R32, R36) -/

theorem frameOut_of_done {f : Fcv} (h : f.st = .done) : frameOut f = frameBits f.buf := if_pos h

theorem frameOut_of_not_done {f : Fcv} (h : f.st ≠ .done) : frameOut f = 0 := if_neg h

/-- Offset `i` of a frame stands eight bits below offset `i - 1`, offset 0 in bits 71:64 (R72). -/
theorem frameBits_extractLsb' (f : Frame) (i : Fin 9) : (frameBits f).extractLsb' (64 - 8 * i.val) 8 = f[i.val] := by
  fin_cases i <;>
    simp [frameBits, BitVec.extractLsb'_append_eq_of_le, BitVec.extractLsb'_append_eq_of_add_le, -Nat.reduceAdd]

/-- Settles O38. -/
theorem frameShownOnlyInDone : Obligations.FrameShownOnlyInDone := by
  refine fun f => ⟨fun h i => ?_, frameOut_of_not_done⟩
  rw [frameOut_of_done h, frameBits_extractLsb']

/-- The outputs in FAILED_TIMEDOUT: the state, `err` and the flag, nothing of the buffer, and no byte taken. -/
theorem out_of_failedTimedOut {f : Fcv} (h : f.st = .failedTimedOut) (p : InPorts) :
    out f p = ⟨0, 3, 2, false, false, false, f.faultBusy⟩ := by
  simp [out, frameOut, stCode, errOut, stError, errorCode, busy, frameValid, rxTake, h]

/-- Settles O39: the outputs in FAILED_TIMEDOUT are a function of the flag alone. -/
theorem truncationLooksLikeSilence : Obligations.TruncationLooksLikeSilence := by
  intro f g p hf hg hfb
  refine ⟨?_, ?_, ?_⟩
  · rw [out_of_failedTimedOut hf, out_of_failedTimedOut hg, hfb]
  · exact congrArg OutPorts.rxTake (out_of_failedTimedOut hf p)
  · simp [observe, hf]

/-- In IDLE every output but `fault_busy` is 0, whatever the inputs are. -/
theorem out_of_idle {f : Fcv} (h : f.st = .idle) (p : InPorts) : out f p = ⟨0, 0, 0, false, false, false, f.faultBusy⟩ := by
  simp [out, frameOut, stCode, errOut, stError, busy, frameValid, rxTake, h]

theorem packOut_of_idle {f : Fcv} (h : f.st = .idle) (hfb : f.faultBusy = false) (p : InPorts) : packOut (out f p) = 0 := by
  rw [out_of_idle h, hfb]
  decide

/-- RST completes from every state: it takes no byte. -/
theorem exec_rst (s : State) : exec .rst s = .next (clocked resetPorts s) :=
  clockCycle_of_inside (p := resetPorts) (by simp [offsetMissing, rxTake])

/-- Settles O40: after RST the block is IDLE with the flag clear, as it is in the reset state. -/
theorem resetStateAndOutputs : Obligations.ResetStateAndOutputs := by
  refine ⟨fun s => ⟨_, exec_rst s, ?_⟩, rfl, rfl, rfl, rfl, packOut_of_idle rfl rfl⟩
  rw [clocked_fcv, stepFcv_rst resetPorts_rst]
  exact ⟨rfl, rfl, rfl, rfl, packOut_of_idle rfl rfl⟩

end Sys2Proof.Machine
end

section
/-! The invariants of reachable states: they hold at reset, and every step keeps them (spec/10_state.md R26, spec/60_exceptions.md
R185). -/

namespace Sys2Proof.Machine

open Sys2Proof

/-- Settles O42. -/
theorem resetMeetsTheInvariant : Obligations.ResetMeetsTheInvariant := by
  unfold Obligations.ResetMeetsTheInvariant
  decide

/-! ## The block's invariant -/

/-- The block's invariant speaks of `st`, `fill` and `buf` alone. -/
theorem fcvInv_congr {f g : Fcv} (hst : g.st = f.st) (hfill : g.fill = f.fill) (hbuf : g.buf = f.buf) (h : FcvInv f) :
    FcvInv g := by
  rwa [FcvInv, hst, hfill, hbuf]

theorem fcvInv_resetFcv (f : Fcv) : FcvInv (resetFcv f) := by simp [FcvInv]

theorem fcvInv_armAccept (d : BitVec 16) (f : Fcv) : FcvInv (armAccept d f) := by simp [FcvInv]

theorem fcvInv_raiseTimedOut (f : Fcv) : FcvInv (raiseError .timedOut f) := by simp [FcvInv]

theorem fill_succ_le_eight : ∀ {n : Fin 10}, n ≤ 7 → n + 1 ≤ 8 := by decide

/-- APPEND leaves the block in AWAIT with at most eight bytes (R26(b)). -/
theorem fcvInv_appendByte {f : Fcv} (hst : f.st = .await) (hfill : f.fill ≤ 7) (b : Byte) : FcvInv (appendByte b f) := by
  simpa [FcvInv, hst] using fill_succ_le_eight hfill

/-- The ninth byte is not among those its checksum covers. -/
theorem payload_set_eight (f : Frame) (b : Byte) : payload (f.set 8 b) = payload f := by simp [payload]

/-- VALIDATE ends as its comparison says, and the buffer still shows why (R26(c), (d)). -/
theorem fcvInv_validateByte (b : Byte) (f : Fcv) : FcvInv (validateByte b f) := by
  by_cases h : b = chk (payload f.buf) <;> simp [FcvInv, validateByte_st, payload_set_eight, h]

theorem fcvInv_poll (rx : Option Byte) {f : Fcv} (h : FcvInv f) : FcvInv (poll rx f) := by
  obtain ⟨-, hp⟩ | ⟨-, -, hp⟩ | ⟨hst, -, b, -, hp⟩ := poll_cases rx f
  · rwa [hp]
  · rw [hp]; exact fcvInv_raiseTimedOut f
  · rw [hp, takeByte]
    split
    · next hfill => exact fcvInv_appendByte hst hfill b
    · exact fcvInv_validateByte b f

theorem fcvInv_stepFcv (p : InPorts) {f : Fcv} (h : FcvInv f) : FcvInv (stepFcv p f) := by
  obtain ⟨-, hs⟩ | ⟨-, -, -, hs⟩ | ⟨-, -, hs⟩ := stepFcv_cases p f
  · rw [hs]; exact fcvInv_resetFcv f
  · rw [hs]; exact fcvInv_armAccept p.dur f
  · rw [hs]; exact fcvInv_congr (afterPoll_st ..) (afterPoll_fill ..) (afterPoll_buf ..) (fcvInv_poll _ h)

/-! ## The session's invariant -/

theorem waitResult_ne_error (op : Waiter) (f : Frame) (e : ErrorKind) : waitResult op f ≠ .error e := by
  cases op <;> simp [waitResult]

/-- A wait that is looked at returns no `InvalidArgument`. -/
theorem settle_ret_ne {s : State} (h : s.ret ≠ .error .invalidArgument) : (settle s).ret ≠ .error .invalidArgument := by
  unfold settle
  split
  · split <;> simp [h, waitResult_ne_error]
  all_goals exact h

theorem settle_session_ne {s : State} (h : s.session ≠ .failed .invalidArgument) :
    (settle s).session ≠ .failed .invalidArgument := by
  unfold settle
  split
  · split <;> simp [h]
  all_goals exact h

/-- Looking at the wait restores the invariant that ties it to the block. -/
theorem inv_settle {s : State} (hf : FcvInv s.fcv) (hr : s.ret ≠ .error .invalidArgument)
    (hs : s.session ≠ .failed .invalidArgument) : Inv (settle s) :=
  ⟨by rwa [settle_fcv], settle_waiting, settle_ret_ne hr, settle_session_ne hs⟩

/-- A clock edge keeps the invariant when the block it leaves meets its own. -/
theorem inv_edge {g : Fcv} {s : State} (hg : FcvInv g) (h : Inv s) : Inv (edge g s) := by
  obtain ⟨-, -, hr, hs⟩ := h
  exact inv_settle hg hr hs

/-- With no operation waiting the session puts no demand on the block. -/
theorem inv_of_not_waiting {s : State} (hf : FcvInv s.fcv) (hw : waiting s = false) (hr : s.ret ≠ .error .invalidArgument)
    (hs : s.session ≠ .failed .invalidArgument) : Inv s :=
  ⟨hf, fun hw' => (Bool.false_ne_true (hw.symm.trans hw')).elim, hr, hs⟩

/-! ## Operations that keep the invariant -/

/-- An operation that leads from a state that meets the invariant only to states that meet it. -/
def KeepsInv (k : State → Host.Outcome State Fault Refusal) : Prop := ∀ s t, Inv s → k s = .next t → Inv t

theorem keepsInv_next {g : State → State} (h : ∀ s, Inv s → Inv (g s)) : KeepsInv (fun s => .next (g s)) := by
  intro s t hI ht
  cases ht
  exact h s hI

theorem keepsInv_andThen {f k : State → Host.Outcome State Fault Refusal} (hf : KeepsInv f) (hk : KeepsInv k) :
    KeepsInv (fun s => andThen (f s) k) := by
  intro s t hI h
  obtain ⟨u, hu, h⟩ := andThen_eq_next.1 h
  exact hk u t (hf s u hI hu) h

theorem keepsInv_clockCycle (p : InPorts) : KeepsInv (clockCycle p) := by
  intro s t hI h
  obtain ⟨-, rfl⟩ := clockCycle_next h
  exact inv_edge (fcvInv_stepFcv p hI.1) hI

theorem keepsInv_envCycles (cs : List EnvCycle) : KeepsInv (envCycles cs) := by
  induction cs with
  | nil => exact keepsInv_next fun _ hI => hI
  | cons c cs ih => exact keepsInv_andThen (keepsInv_clockCycle _) ih

theorem keepsInv_writeByte (b : Byte) (w : Write) : KeepsInv (writeByte b w) :=
  keepsInv_andThen (keepsInv_envCycles _) (keepsInv_next fun s hI => by split <;> exact hI)

/-- A rejected write fails with `WriteFailed`, and nothing waits. -/
theorem inv_writeFailed {s : State} (h : Inv s) : Inv (writeFailed s) :=
  inv_of_not_waiting h.1 rfl (by simp) (by simp)

theorem keepsInv_writeAll {k : State → Host.Outcome State Fault Refusal} (hk : KeepsInv k) (ws : List (Byte × List EnvCycle)) :
    ∀ r, KeepsInv (writeAll k ws r) := by
  induction ws with
  | nil => intro r; cases r <;> exact hk
  | cons w ws ih =>
    intro r
    match r with
    | none => exact keepsInv_andThen (keepsInv_writeByte _ _) (ih _)
    | some 0 => exact keepsInv_andThen (keepsInv_writeByte _ _) (keepsInv_next fun _ => inv_writeFailed)
    | some (n + 1) => exact keepsInv_andThen (keepsInv_writeByte _ _) (ih _)

theorem keepsInv_sendFrame {k : State → Host.Outcome State Fault Refusal} (hk : KeepsInv k) (f : Frame) (w : Writes) :
    KeepsInv (sendFrame f w k) := by
  intro s t hI h
  obtain ⟨hf, -, hr, -⟩ := hI
  exact keepsInv_writeAll hk _ _ { s with session := .sending } t (inv_of_not_waiting hf rfl hr (by simp)) h

/-- The session begins to wait, and its wait is looked at: after a refused ARM the block may be done already. -/
theorem keepsInv_startCollect (op : Waiter) (a : ArmCycle) : KeepsInv (startCollect op a) :=
  keepsInv_andThen (keepsInv_clockCycle _) (keepsInv_next fun _ ⟨hf, _, hr, _⟩ => inv_settle hf hr (by simp))

theorem keepsInv_awaitResponse (ls : List Line) : KeepsInv (awaitResponse ls) := by
  induction ls with
  | nil => exact keepsInv_next fun _ hI => hI
  | cons l ls ih =>
    intro s t hI h
    cases l with
    | word w =>
      simp only [awaitResponse] at h
      split at h
      · split at h
        · next u hu => exact ih u t (keepsInv_clockCycle _ s u hI hu) h
        · cases h
        · cases h
      · cases h; exact hI
    | frame f => cases h; exact hI
    | call i => cases h; exact hI

/-- The ARM of a collection and its wait. -/
theorem keepsInv_collect (op : Waiter) (a : ArmCycle) (ls : List Line) :
    KeepsInv (fun s => andThen (startCollect op a s) (awaitResponse ls)) :=
  keepsInv_andThen (keepsInv_startCollect op a) (keepsInv_awaitResponse ls)

/-- An operation that has returned `()` waits for nothing. -/
theorem inv_returned_unit {s : State} (h : Inv s) : Inv { s with session := .done, ret := .unit } :=
  inv_of_not_waiting h.1 rfl (by simp) (by simp)

/-- A returned value that is no error says nothing against the invariant. -/
theorem inv_withRet {s : State} {r : Ret} (hr : r ≠ .error .invalidArgument) (h : Inv s) : Inv { s with ret := r } := by
  obtain ⟨hf, hw, -, hs⟩ := h
  exact ⟨hf, hw, hr, hs⟩

theorem keepsInv_buildCall (c : Byte) (a : Args) : KeepsInv (fun s => .next (buildCall c a s)) :=
  keepsInv_next fun s hI => inv_withRet (s := buildInto c a s) (by simp) hI

theorem await_of_polling {f : Fcv} (h : polling f = true) : f.st = .await := by
  simp only [polling, Bool.and_eq_true, beq_iff_eq] at h
  exact h.1

/-- Every instruction keeps the invariant, the internal transitions as well. -/
theorem exec_keeps_inv (i : Instr) : KeepsInv (exec i) := by
  intro s t hI h
  cases i with
  | rst => exact keepsInv_clockCycle resetPorts s t hI h
  | arm d rx tick => exact keepsInv_clockCycle _ s t hI h
  | rxb b tick => exact keepsInv_clockCycle _ s t hI h
  | rxn => exact keepsInv_clockCycle _ s t hI h
  | tick => exact keepsInv_clockCycle _ s t hI h
  | nop => exact keepsInv_clockCycle _ s t hI h
  | timeout =>
    simp only [exec, execTimeout] at h
    split at h <;> cases h
    · exact inv_edge (fcvInv_raiseTimedOut _) hI
    · exact hI
  | append b =>
    simp only [exec, execAppend] at h
    split at h <;> cases h
    · next hc =>
      obtain ⟨hpoll, hfill⟩ := hc
      exact inv_edge (fcvInv_appendByte (await_of_polling hpoll) hfill b) hI
    · exact hI
  | validate b =>
    simp only [exec, execValidate] at h
    split at h <;> cases h
    · exact inv_edge (fcvInv_validateByte b _) hI
    · exact hI
  | fReadConcentration => exact keepsInv_buildCall _ _ s t hI h
  | fCalibrateZeroPoint a => exact keepsInv_buildCall _ _ s t hI h
  | fCalibrateSpanPoint a => exact keepsInv_buildCall _ _ s t hI h
  | fSetAutoCalibration e => exact keepsInv_buildCall _ _ s t hI h
  | fSetDetectionRange a => exact keepsInv_buildCall _ _ s t hI h
  | build c a => exact keepsInv_buildCall _ _ s t hI h
  | chk l => exact keepsInv_next (fun _ => inv_withRet (by simp)) s t hI h
  | txb b w =>
    obtain ⟨-, h⟩ := hostCall_next h
    have hret : (if w.accepted then Ret.ok else .err) ≠ .error .invalidArgument := by split <;> simp
    exact keepsInv_andThen (keepsInv_writeByte b w) (keepsInv_next fun _ => inv_withRet hret) s t hI h
  | send f w =>
    obtain ⟨-, h⟩ := hostCall_next h
    exact keepsInv_sendFrame (keepsInv_next fun _ => inv_withRet (by simp)) f w s t hI h
  | collect a =>
    obtain ⟨-, h⟩ := hostCall_next h
    exact keepsInv_collect .collect a s.lines s t hI h
  | readConcentration x =>
    obtain ⟨-, h⟩ := hostCall_next h
    exact keepsInv_sendFrame (keepsInv_collect _ _ s.lines) _ _ (buildInto _ _ s) t hI h
  | setAutoCalibration e w =>
    obtain ⟨-, h⟩ := hostCall_next h
    exact keepsInv_sendFrame (keepsInv_next fun _ => inv_returned_unit) _ w (buildInto _ _ s) t hI h
  | setRange =>
    obtain ⟨-, h⟩ := hostCall_next h
    exact keepsInv_next (fun _ => inv_returned_unit) s t hI h

/-- Settles O41: a step runs an instruction at the state with its line dropped, of which the invariant does not speak. -/
theorem stepKeepsTheInvariant : Obligations.StepKeepsTheInvariant := by
  intro s t hI h
  unfold step at h
  split at h
  · next i _ => exact exec_keeps_inv i (dropLine s) t hI h
  · cases h

end Sys2Proof.Machine
end

section
/-! Terminal states hold their outputs; no step asks for a ninth offset; the transmit stream only grows (spec/20_memory.md R51, R53,
R63). -/

namespace Sys2Proof.Machine

open Sys2Proof

/-! ## Terminal states (R63(f)) -/

theorem terminal_iff_st {f : Fcv} :
    terminal f = true ↔ f.st = .done ∨ f.st = .failedTimedOut ∨ f.st = .failedIntegrity := by
  simp [terminal, frameValid, failed]

theorem ne_await_of_terminal {f : Fcv} (h : terminal f = true) : f.st ≠ .await := by
  obtain h | h | h := terminal_iff_st.1 h <;> simp [h]

theorem terminal_congr {f g : Fcv} (hst : g.st = f.st) : terminal g = terminal f := by
  simp only [terminal, frameValid, failed, hst]

theorem rxTake_of_not_await {f : Fcv} (h : f.st ≠ .await) (p : InPorts) : rxTake f p = false := by simp [rxTake, h]

/-- Outside AWAIT the outputs show `st`, `buf` and `fault_busy` alone: `cnt` and `fill` are not seen. -/
theorem out_congr {f g : Fcv} (h : f.st ≠ .await) (hst : g.st = f.st) (hbuf : g.buf = f.buf)
    (hfb : g.faultBusy = f.faultBusy) (p : InPorts) : out g p = out f p := by
  have hg : g.st ≠ .await := by rwa [hst]
  simp only [out, rxTake_of_not_await h, rxTake_of_not_await hg, frameOut, errOut, busy, frameValid, hst, hbuf, hfb]

theorem envWord_iff {w : BitVec 28} : envWord w = true ↔ (unpackIn w).rst = false ∧ (unpackIn w).arm = false := by
  simp [envWord]

/-- Outside AWAIT a word without RST and ARM can only count a tick. -/
theorem stepFcv_of_not_await {p : InPorts} {f : Fcv} (hr : p.rst = false) (ha : p.arm = false) (h : f.st ≠ .await) :
    stepFcv p f = afterPoll p f := by
  rw [stepFcv_poll hr (.inl ha), poll_of_not_await h, afterPoll]

/-- Settles O36: the word can only count a tick, and `cnt` is not seen outside AWAIT. -/
theorem terminalStateHolds : Obligations.TerminalStateHolds := by
  intro w s hterm henv
  obtain ⟨hr, ha⟩ := envWord_iff.1 henv
  have hna := ne_await_of_terminal hterm
  have hinside : offsetMissing (unpackIn w) s.fcv = false := offsetMissing_of_fill fun h => absurd h hna
  refine ⟨clocked (unpackIn w) s, ?_, fun p => ?_, ?_⟩
  · rw [exec_decodeIn, clockCycle_of_inside hinside]
  · rw [clocked_fcv, stepFcv_of_not_await hr ha hna]
    exact out_congr hna (afterPoll_st ..) (afterPoll_buf ..) (by simp [ha]) p
  · rw [clocked_fcv, stepFcv_of_not_await hr ha hna, terminal_congr (afterPoll_st ..), hterm]

/-! ## What completes where `fill` is at most 8 in AWAIT (R26(b), R51) -/

theorem clockCycle_of_fill {s : State} (hf : s.fcv.st = .await → s.fcv.fill ≤ 8) (p : InPorts) :
    clockCycle p s = .next (clocked p s) :=
  clockCycle_of_inside (offsetMissing_of_fill hf)

/-- One word of a wait is one clock cycle, and the wait goes on. -/
theorem awaitResponse_word (w : BitVec 28) (ls : List Line) (s : State) :
    awaitResponse (.word w :: ls) s =
      if waiting s then andThen (clockCycle (unpackIn w) s) (awaitResponse ls)
      else .next { s with lines := .word w :: ls } := rfl

theorem awaitResponse_completes (ls : List Line) (s : State) (hf : s.fcv.st = .await → s.fcv.fill ≤ 8) :
    ∃ t, awaitResponse ls s = .next t := by
  induction ls generalizing s with
  | nil => exact ⟨_, rfl⟩
  | cons l ls ih =>
    cases l with
    | word w =>
      rw [awaitResponse_word]
      split
      · rw [clockCycle_of_fill hf, andThen_next]
        exact ih _ (by rw [clocked_fcv]; exact stepFcv_await_fill _ _ hf)
      · exact ⟨_, rfl⟩
    | frame f => exact ⟨_, rfl⟩
    | call i => exact ⟨_, rfl⟩

/-- The ARM of a collection, accepted or refused, and its wait. -/
theorem collect_completes (op : Waiter) (a : ArmCycle) (ls : List Line) (s : State)
    (hf : s.fcv.st = .await → s.fcv.fill ≤ 8) : ∃ t, andThen (startCollect op a s) (awaitResponse ls) = .next t := by
  rw [startCollect, clockCycle_of_fill hf, andThen_next, andThen_next]
  apply awaitResponse_completes
  rw [settle_fcv]
  simpa only [clocked_fcv] using stepFcv_await_fill _ _ hf

/-- SEND completes where what follows the nine writes does. -/
theorem sendFrame_completes (f : Frame) (writes : Writes) {k : State → Host.Outcome State Fault Refusal}
    (hk : ∀ s : State, (s.fcv.st = .await → s.fcv.fill ≤ 8) → ∃ t, k s = .next t) (s : State)
    (hf : s.fcv.st = .await → s.fcv.fill ≤ 8) : ∃ t, sendFrame f writes k s = .next t := by
  obtain ⟨reject, during⟩ := writes
  cases reject with
  | none =>
    rw [sendFrame_accepted f during k s hf]
    exact hk _ (blockAfter_await_fill _ _ hf)
  | some i => exact ⟨_, sendFrame_rejected f i during k s hf⟩

/-- A host call completes or is reentrant, when what it does with no operation waiting completes. -/
theorem hostCall_completes_or_reentrant {s : State} {o : Host.Outcome State Fault Refusal}
    (h : waiting s = false → ∃ t, o = .next t) :
    (∃ t, hostCall s o = .next t) ∨ hostCall s o = .fault .reentrantOperation := by
  cases hw : waiting s with
  | true => exact .inr (hostCall_of_waiting hw o)
  | false => exact .inl (by rw [hostCall_of_not_waiting hw]; exact h hw)

/-- With R26(b) an instruction stops on a reentrant call alone. -/
theorem exec_completes_or_reentrant (i : Instr) (s : State) (hf : s.fcv.st = .await → s.fcv.fill ≤ 8) :
    (∃ t, exec i s = .next t) ∨ exec i s = .fault .reentrantOperation := by
  cases i with
  | rst => exact .inl ⟨_, clockCycle_of_fill hf resetPorts⟩
  | arm d rx tick => exact .inl ⟨_, clockCycle_of_fill hf _⟩
  | rxb b tick => exact .inl ⟨_, clockCycle_of_fill hf _⟩
  | rxn => exact .inl ⟨_, clockCycle_of_fill hf _⟩
  | tick => exact .inl ⟨_, clockCycle_of_fill hf _⟩
  | nop => exact .inl ⟨_, clockCycle_of_fill hf _⟩
  | timeout => exact .inl (by simp only [exec, execTimeout]; split <;> exact ⟨_, rfl⟩)
  | append b => exact .inl (by simp only [exec, execAppend]; split <;> exact ⟨_, rfl⟩)
  | validate b => exact .inl (by simp only [exec, execValidate]; split <;> exact ⟨_, rfl⟩)
  | fReadConcentration => exact .inl ⟨_, rfl⟩
  | fCalibrateZeroPoint a => exact .inl ⟨_, rfl⟩
  | fCalibrateSpanPoint a => exact .inl ⟨_, rfl⟩
  | fSetAutoCalibration e => exact .inl ⟨_, rfl⟩
  | fSetDetectionRange a => exact .inl ⟨_, rfl⟩
  | chk l => exact .inl ⟨_, rfl⟩
  | build c a => exact .inl ⟨_, rfl⟩
  | txb b w =>
    refine hostCall_completes_or_reentrant fun hw => ?_
    rw [writeByte_eq b w s hw hf]
    exact ⟨_, rfl⟩
  | send f w => exact hostCall_completes_or_reentrant fun _ => sendFrame_completes f w (fun _ _ => ⟨_, rfl⟩) s hf
  | collect a => exact hostCall_completes_or_reentrant fun _ => collect_completes .collect a s.lines s hf
  | readConcentration x =>
    exact hostCall_completes_or_reentrant fun _ => sendFrame_completes _ x.writes (collect_completes _ _ s.lines) _ hf
  | setAutoCalibration e w =>
    exact hostCall_completes_or_reentrant fun _ => sendFrame_completes _ w (fun _ _ => ⟨_, rfl⟩) _ hf
  | setRange => exact hostCall_completes_or_reentrant fun _ => ⟨_, rfl⟩

/-- A step runs an instruction at the state with its line dropped, or refuses the line. -/
theorem step_cases (s : State) : (∃ i, step s = exec i (dropLine s)) ∨ step s = .refused .undecodable := by
  unfold step
  split
  · next i _ => exact .inl ⟨i, rfl⟩
  · exact .inr rfl

/-- Settles O43: under R26(b) an instruction faults on a reentrant call alone. -/
theorem invariantExcludesTheBufferFault : Obligations.InvariantExcludesTheBufferFault := by
  rintro s ⟨⟨hf, -⟩, -⟩ hfault
  obtain ⟨i, hs⟩ | hs := step_cases s
  · obtain ⟨t, h⟩ | h := exec_completes_or_reentrant i (dropLine s) hf <;> simp [hs, h] at hfault
  · simp [hs] at hfault

/-! ## The transmit stream (R53, R63(d)) -/

/-- An operation that sends no byte and keeps the parameters. -/
def SendsNothing (k : State → Host.Outcome State Fault Refusal) : Prop :=
  ∀ s t, k s = .next t → t.tx = s.tx ∧ t.params = s.params

/-- An operation that recalls no byte that has been sent and keeps the parameters. -/
def RecallsNothing (k : State → Host.Outcome State Fault Refusal) : Prop :=
  ∀ s t, k s = .next t → s.tx <+: t.tx ∧ t.params = s.params

theorem SendsNothing.recallsNothing {k : State → Host.Outcome State Fault Refusal} (h : SendsNothing k) :
    RecallsNothing k := by
  intro s t ht
  obtain ⟨htx, hp⟩ := h s t ht
  exact ⟨htx ▸ List.prefix_rfl, hp⟩

theorem sendsNothing_next {g : State → State} (htx : ∀ s, (g s).tx = s.tx) (hp : ∀ s, (g s).params = s.params) :
    SendsNothing (fun s => .next (g s)) := by
  intro s t h
  cases h
  exact ⟨htx s, hp s⟩

theorem sendsNothing_andThen {f k : State → Host.Outcome State Fault Refusal} (hf : SendsNothing f) (hk : SendsNothing k) :
    SendsNothing (fun s => andThen (f s) k) := by
  intro s t h
  obtain ⟨u, hu, h⟩ := andThen_eq_next.1 h
  obtain ⟨hutx, hup⟩ := hf s u hu
  obtain ⟨htx, hp⟩ := hk u t h
  exact ⟨htx.trans hutx, hp.trans hup⟩

theorem recallsNothing_andThen {f k : State → Host.Outcome State Fault Refusal} (hf : RecallsNothing f)
    (hk : RecallsNothing k) : RecallsNothing (fun s => andThen (f s) k) := by
  intro s t h
  obtain ⟨u, hu, h⟩ := andThen_eq_next.1 h
  obtain ⟨hutx, hup⟩ := hf s u hu
  obtain ⟨htx, hp⟩ := hk u t h
  exact ⟨hutx.trans htx, hp.trans hup⟩

theorem sendsNothing_hostCall {k : State → Host.Outcome State Fault Refusal} (hk : SendsNothing k) :
    SendsNothing (fun s => hostCall s (k s)) := fun s t h => hk s t (hostCall_next h).2

theorem recallsNothing_hostCall {k : State → Host.Outcome State Fault Refusal} (hk : RecallsNothing k) :
    RecallsNothing (fun s => hostCall s (k s)) := fun s t h => hk s t (hostCall_next h).2

theorem sendsNothing_clockCycle (p : InPorts) : SendsNothing (clockCycle p) := by
  intro s t h
  obtain ⟨-, rfl⟩ := clockCycle_next h
  exact ⟨clocked_tx .., clocked_params ..⟩

theorem sendsNothing_envCycles (cs : List EnvCycle) : SendsNothing (envCycles cs) := by
  induction cs with
  | nil => exact sendsNothing_next (fun _ => rfl) fun _ => rfl
  | cons c cs ih => exact sendsNothing_andThen (sendsNothing_clockCycle _) ih

/-- A rejected write sends no byte (R161). -/
theorem sendsNothing_writeByte_rejected (b : Byte) (cs : List EnvCycle) : SendsNothing (writeByte b ⟨false, cs⟩) :=
  sendsNothing_andThen (sendsNothing_envCycles cs) (sendsNothing_next (fun _ => rfl) fun _ => rfl)

theorem recallsNothing_writeByte (b : Byte) (w : Write) : RecallsNothing (writeByte b w) := by
  obtain ⟨accepted, cs⟩ := w
  cases accepted with
  | false => exact (sendsNothing_writeByte_rejected b cs).recallsNothing
  | true =>
    refine recallsNothing_andThen (sendsNothing_envCycles cs).recallsNothing fun s t h => ?_
    cases h
    exact ⟨List.prefix_append _ _, rfl⟩

theorem recallsNothing_writeAll {k : State → Host.Outcome State Fault Refusal} (hk : RecallsNothing k)
    (ws : List (Byte × List EnvCycle)) : ∀ r, RecallsNothing (writeAll k ws r) := by
  induction ws with
  | nil => intro r; cases r <;> exact hk
  | cons w ws ih =>
    intro r
    match r with
    | none => exact recallsNothing_andThen (recallsNothing_writeByte _ _) (ih _)
    | some 0 =>
      exact recallsNothing_andThen (recallsNothing_writeByte _ _)
        (sendsNothing_next writeFailed_tx writeFailed_params).recallsNothing
    | some (n + 1) => exact recallsNothing_andThen (recallsNothing_writeByte _ _) (ih _)

theorem recallsNothing_sendFrame {k : State → Host.Outcome State Fault Refusal} (hk : RecallsNothing k) (f : Frame)
    (w : Writes) : RecallsNothing (sendFrame f w k) :=
  fun s t h => recallsNothing_writeAll hk _ _ { s with session := .sending } t h

theorem sendsNothing_awaitResponse (ls : List Line) : SendsNothing (awaitResponse ls) := by
  induction ls with
  | nil => exact sendsNothing_next (fun _ => rfl) fun _ => rfl
  | cons l ls ih =>
    intro s t h
    cases l with
    | word w =>
      rw [awaitResponse_word] at h
      split at h
      · exact sendsNothing_andThen (sendsNothing_clockCycle _) ih s t h
      · cases h; exact ⟨rfl, rfl⟩
    | frame f => cases h; exact ⟨rfl, rfl⟩
    | call i => cases h; exact ⟨rfl, rfl⟩

/-- The ARM of a collection and its wait. -/
theorem sendsNothing_collect (op : Waiter) (a : ArmCycle) (ls : List Line) :
    SendsNothing (fun s => andThen (startCollect op a s) (awaitResponse ls)) :=
  sendsNothing_andThen
    (sendsNothing_andThen (sendsNothing_clockCycle _) (sendsNothing_next (fun _ => settle_tx _) fun _ => settle_params _))
    (sendsNothing_awaitResponse ls)

/-- A transition that is taken is one clock edge, and one that is not taken changes nothing. -/
theorem sendsNothing_edge_ite (c : State → Prop) [∀ s, Decidable (c s)] (g : State → Fcv) :
    SendsNothing (fun s => if c s then .next (edge (g s) s) else .next s) := by
  intro s t h
  dsimp only at h
  split at h <;> cases h
  · exact ⟨edge_tx .., edge_params ..⟩
  · exact ⟨rfl, rfl⟩

theorem sendsNothing_buildCall (c : Byte) (a : Args) : SendsNothing (fun s => .next (buildCall c a s)) :=
  sendsNothing_next (buildCall_tx · c a) (buildCall_params · c a)

theorem sendsNothing_withRet (r : Ret) : SendsNothing (fun s => .next { s with ret := r }) :=
  sendsNothing_next (fun _ => rfl) fun _ => rfl

theorem sendsNothing_returned (r : Ret) : SendsNothing (fun s => .next { s with session := .done, ret := r }) :=
  sendsNothing_next (fun _ => rfl) fun _ => rfl

/-- The rows whose meaning may append to the transmit stream. -/
def MaySend (i : Instr) : Prop :=
  (∃ b cs, i = .txb b ⟨true, cs⟩) ∨ (∃ f ws, i = .send f ws) ∨ (∃ x, i = .readConcentration x) ∨
    (∃ e ws, i = .setAutoCalibration e ws)

/-- An instruction sends nothing, or it is one of those that may send and recalls nothing. -/
theorem exec_sendsNothing_or_maySend (i : Instr) :
    SendsNothing (exec i) ∨ (MaySend i ∧ RecallsNothing (exec i)) := by
  cases i with
  | rst => exact .inl (sendsNothing_clockCycle resetPorts)
  | arm d rx tick => exact .inl (sendsNothing_clockCycle _)
  | rxb b tick => exact .inl (sendsNothing_clockCycle _)
  | rxn => exact .inl (sendsNothing_clockCycle _)
  | tick => exact .inl (sendsNothing_clockCycle _)
  | nop => exact .inl (sendsNothing_clockCycle _)
  | timeout => exact .inl (sendsNothing_edge_ite _ _)
  | append b => exact .inl (sendsNothing_edge_ite _ _)
  | validate b => exact .inl (sendsNothing_edge_ite _ _)
  | fReadConcentration => exact .inl fun s => sendsNothing_buildCall _ _ s
  | fCalibrateZeroPoint a => exact .inl fun s => sendsNothing_buildCall _ _ s
  | fCalibrateSpanPoint a => exact .inl fun s => sendsNothing_buildCall _ _ s
  | fSetAutoCalibration e => exact .inl fun s => sendsNothing_buildCall _ _ s
  | fSetDetectionRange a => exact .inl fun s => sendsNothing_buildCall _ _ s
  | chk l => exact .inl (sendsNothing_withRet _)
  | build c a => exact .inl fun s => sendsNothing_buildCall _ _ s
  | txb b w =>
    obtain ⟨accepted, cs⟩ := w
    cases accepted with
    | false =>
      exact .inl (sendsNothing_hostCall
        (sendsNothing_andThen (sendsNothing_writeByte_rejected b cs) (sendsNothing_withRet .err)))
    | true =>
      exact .inr ⟨.inl ⟨b, cs, rfl⟩, recallsNothing_hostCall
        (recallsNothing_andThen (recallsNothing_writeByte b _) (sendsNothing_withRet .ok).recallsNothing)⟩
  | send f w =>
    exact .inr ⟨.inr (.inl ⟨f, w, rfl⟩),
      recallsNothing_hostCall (recallsNothing_sendFrame (sendsNothing_withRet .ok).recallsNothing f w)⟩
  | collect a => exact .inl (sendsNothing_hostCall fun s => sendsNothing_collect .collect a s.lines s)
  | readConcentration x =>
    exact .inr ⟨.inr (.inr (.inl ⟨x, rfl⟩)), recallsNothing_hostCall fun s =>
      recallsNothing_sendFrame (sendsNothing_collect _ _ s.lines).recallsNothing _ _ (buildInto _ _ s)⟩
  | setAutoCalibration e w =>
    exact .inr ⟨.inr (.inr (.inr ⟨e, w, rfl⟩)), recallsNothing_hostCall fun s =>
      recallsNothing_sendFrame (sendsNothing_returned .unit).recallsNothing _ w (buildInto _ _ s)⟩
  | setRange => exact .inl (sendsNothing_hostCall (sendsNothing_returned .unit))

theorem exec_recallsNothing (i : Instr) : RecallsNothing (exec i) := by
  obtain h | ⟨-, h⟩ := exec_sendsNothing_or_maySend i
  · exact h.recallsNothing
  · exact h

/-- Settles O44: each instruction sends nothing, or is one of the four and only appends. -/
theorem transmitStreamOnlyGrows : Obligations.TransmitStreamOnlyGrows := by
  constructor
  · intro s t h
    obtain ⟨i, hs⟩ | hs := step_cases s
    · obtain ⟨⟨sent, htx⟩, hp⟩ := exec_recallsNothing i (dropLine s) t (hs ▸ h)
      exact ⟨⟨sent, htx.symm⟩, hp⟩
    · simp [hs] at h
  · intro i s t h hne
    obtain hnone | ⟨hsend, -⟩ := exec_sendsNothing_or_maySend i
    · exact absurd (hnone s t h).1 hne
    · exact hsend

end Sys2Proof.Machine
end

section
/-! IN words: packing, the OR of mnemonics, and the decoder by channels (spec/30_encoding.md R73, R83, R86, R89). -/

namespace Sys2Proof.Machine

open Sys2Proof

/-! ## Packing and unpacking (R73) -/

@[simp] theorem unpackIn_packIn (p : InPorts) : unpackIn (packIn p) = p := by
  obtain ⟨rst, arm, dur, rxv, rxd, tick⟩ := p
  simp only [unpackIn, packIn, BitVec.getLsbD_append]
  simp [BitVec.extractLsb'_append_eq_of_le, BitVec.extractLsb'_append_eq_of_add_le, -Nat.reduceAdd]

@[simp] theorem packIn_unpackIn (w : BitVec 28) : packIn (unpackIn w) = w := by
  apply BitVec.eq_of_getLsbD_eq
  intro i hi
  simp only [packIn, unpackIn, BitVec.getLsbD_append, BitVec.getLsbD_extractLsb']
  interval_cases i <;> simp

/-- The OR of two words joins them field by field. -/
theorem packIn_or (p q : InPorts) :
    packIn p ||| packIn q =
      packIn ⟨p.rst || q.rst, p.arm || q.arm, p.dur ||| q.dur, p.rxv || q.rxv, p.rxd ||| q.rxd, p.tick || q.tick⟩ := by
  apply BitVec.eq_of_getLsbD_eq
  intro i hi
  simp only [packIn, BitVec.getLsbD_or, BitVec.getLsbD_append]
  interval_cases i <;> simp

/-- A mask cuts a word field by field. -/
theorem packIn_and (p q : InPorts) :
    packIn p &&& packIn q =
      packIn ⟨p.rst && q.rst, p.arm && q.arm, p.dur &&& q.dur, p.rxv && q.rxv, p.rxd &&& q.rxd, p.tick && q.tick⟩ := by
  apply BitVec.eq_of_getLsbD_eq
  intro i hi
  simp only [packIn, BitVec.getLsbD_and, BitVec.getLsbD_append]
  interval_cases i <;> simp

/-! ## The words of the mnemonics (R89) -/

theorem rstWord_eq_packIn (rst : Bool) :
    (if rst then 0x8000000#28 else 0) = packIn ⟨rst, false, 0, false, 0, false⟩ := by
  cases rst <;> decide

theorem tickWord_eq_packIn (tick : Bool) :
    (if tick then 0x0000001#28 else 0) = packIn ⟨false, false, 0, false, 0, tick⟩ := by
  cases tick <;> decide

theorem armWord_eq_packIn (d : BitVec 16) :
    0x4000000#28 + (d.setWidth 28 <<< 10) = packIn ⟨false, true, d, false, 0, false⟩ := by
  rw [Laws.TableRow.armPart_eq_or]
  apply BitVec.eq_of_getLsbD_eq
  intro i hi
  simp only [packIn, BitVec.getLsbD_append, BitVec.getLsbD_or]
  interval_cases i <;> simp

theorem rxbWord_eq_packIn (b : Byte) :
    0x0000200#28 + (b.setWidth 28 <<< 1) = packIn ⟨false, false, 0, true, b, false⟩ := by
  rw [Laws.TableRow.rxPart_eq_or]
  apply BitVec.eq_of_getLsbD_eq
  intro i hi
  simp only [packIn, BitVec.getLsbD_append, BitVec.getLsbD_or]
  interval_cases i <;> simp

/-- The word of a script line is the packed word of its channels: each mnemonic is a packed word with its own fields, and OR joins
them. -/
theorem assembleWord_eq_packIn (rst : Bool) (c : Option (BitVec 16)) (r : Option Byte) (t : Bool) :
    assembleWord rst c r t = packIn { channels c r t with rst := rst } := by
  have hzero : (0 : BitVec 28) = packIn ⟨false, false, 0, false, 0, false⟩ := by decide
  unfold assembleWord
  rw [rstWord_eq_packIn, tickWord_eq_packIn]
  cases c <;> cases r <;> simp only [armWord_eq_packIn, rxbWord_eq_packIn, hzero, packIn_or] <;> simp [channels]

theorem unpackIn_assembleWord (rst : Bool) (c : Option (BitVec 16)) (r : Option Byte) (t : Bool) :
    unpackIn (assembleWord rst c r t) = { channels c r t with rst := rst } := by
  rw [assembleWord_eq_packIn, unpackIn_packIn]

/-- Settles O6. -/
theorem inWordFieldsRoundTrip : Obligations.InWordFieldsRoundTrip :=
  ⟨unpackIn_packIn, packIn_unpackIn, assembleWord_eq_packIn false,
    fun c r t => congrArg InPorts.rst (unpackIn_assembleWord true c r t)⟩

/-! ## The decoder by channels -/

/-- The instruction of a word with `rst = 0`, by its command, receive and tick channels (R73, R83). -/
def channelInstr : Option (BitVec 16) → Option Byte → Bool → Instr
  | some d, rx, tick => .arm d rx tick
  | none, some b, tick => .rxb b tick
  | none, none, true => .tick
  | none, none, false => .rxn

theorem decodeIn_eq (w : BitVec 28) :
    decodeIn w =
      if (unpackIn w).rst then .rst else channelInstr (cmdOf (unpackIn w)) (rxOf (unpackIn w)) (unpackIn w).tick := by
  unfold decodeIn
  obtain ⟨rst, arm, dur, rxv, rxd, tick⟩ := unpackIn w
  cases rst <;> cases arm <;> cases rxv <;> cases tick <;> rfl

@[simp] theorem cmdOf_channels (c : Option (BitVec 16)) (r : Option Byte) (t : Bool) : cmdOf (channels c r t) = c := by
  cases c <;> rfl

theorem cmdOf_isSome (p : InPorts) : (cmdOf p).isSome = p.arm := by cases h : p.arm <;> simp [cmdOf, h]

theorem rxOf_isSome (p : InPorts) : (rxOf p).isSome = p.rxv := by cases h : p.rxv <;> simp [rxOf, h]

/-- The command channels of two words agree when `arm` does, and `dur` where it is read. -/
theorem cmdOf_eq_cmdOf_iff {p q : InPorts} : cmdOf p = cmdOf q ↔ p.arm = q.arm ∧ (p.arm = true → p.dur = q.dur) := by
  cases hp : p.arm <;> cases hq : q.arm <;> simp [cmdOf, hp, hq]

/-- The receive channels of two words agree when `rxv` does, and `rxd` where it is read. -/
theorem rxOf_eq_rxOf_iff {p q : InPorts} : rxOf p = rxOf q ↔ p.rxv = q.rxv ∧ (p.rxv = true → p.rxd = q.rxd) := by
  cases hp : p.rxv <;> cases hq : q.rxv <;> simp [rxOf, hp, hq]

theorem channels_inj {c c' : Option (BitVec 16)} {r r' : Option Byte} {t t' : Bool}
    (h : channels c r t = channels c' r' t') : c = c' ∧ r = r' ∧ t = t' :=
  ⟨by simpa using congrArg cmdOf h, by simpa using congrArg rxOf h, congrArg InPorts.tick h⟩

theorem decodeIn_assembleWord (c : Option (BitVec 16)) (r : Option Byte) (t : Bool) :
    decodeIn (assembleWord false c r t) = channelInstr c r t := by
  have hports : unpackIn (assembleWord false c r t) = channels c r t := unpackIn_assembleWord false c r t
  rw [decodeIn_eq, hports, cmdOf_channels, rxOf_channels]
  rfl

theorem encode_channelInstr (p : Params) (c : Option (BitVec 16)) (r : Option Byte) (t : Bool) :
    encode p (channelInstr c r t) = some (.word (assembleWord false c r t)) := by
  unfold channelInstr
  split <;> rfl

theorem channelInstr_ne_rst (c : Option (BitVec 16)) (r : Option Byte) (t : Bool) : channelInstr c r t ≠ .rst := by
  unfold channelInstr
  split <;> nofun

/-- The instruction loses nothing of the channels: its encoding still holds all three. -/
theorem channelInstr_inj {c c' : Option (BitVec 16)} {r r' : Option Byte} {t t' : Bool} :
    channelInstr c r t = channelInstr c' r' t' ↔ c = c' ∧ r = r' ∧ t = t' := by
  refine ⟨fun h => ?_, fun ⟨hc, hr, ht⟩ => by rw [hc, hr, ht]⟩
  have hline := congrArg (encode Params.default) h
  rw [encode_channelInstr, encode_channelInstr, Option.some.injEq, Line.word.injEq] at hline
  have hports := congrArg unpackIn hline
  rw [unpackIn_assembleWord, unpackIn_assembleWord] at hports
  exact channels_inj hports

/-- Settles O5: with `rst = 0` a word decodes to its three channels, and a channel holds exactly the bits that are read. -/
theorem decodingKeepsExactlyTheReadBits : Obligations.DecodingKeepsExactlyTheReadBits := by
  intro w v
  rw [decodeIn_eq, decodeIn_eq]
  cases hw : (unpackIn w).rst <;> cases hv : (unpackIn v).rst
  · simp [channelInstr_inj, cmdOf_eq_cmdOf_iff, rxOf_eq_rxOf_iff, and_assoc]
  · simp [channelInstr_ne_rst]
  · simp [(channelInstr_ne_rst _ _ _).symm]
  · simp

/-! ## The rows of the opcode table (R83) -/

/-- The rows' masks are of the one-bit fields: such a mask keeps the chosen fields and clears the rest. -/
theorem and_flagMask (w : BitVec 28) (r a x t : Bool) :
    w &&& packIn ⟨r, a, 0, x, 0, t⟩ =
      packIn ⟨(unpackIn w).rst && r, (unpackIn w).arm && a, 0, (unpackIn w).rxv && x, 0, (unpackIn w).tick && t⟩ := by
  calc w &&& packIn ⟨r, a, 0, x, 0, t⟩ = packIn (unpackIn w) &&& packIn ⟨r, a, 0, x, 0, t⟩ := by rw [packIn_unpackIn]
    _ = _ := by rw [packIn_and]; simp

theorem channelInstr_inRow {w : BitVec 28} {c : Option (BitVec 16)} {r : Option Byte} {t : Bool}
    (hr : (unpackIn w).rst = false) (ha : (unpackIn w).arm = c.isSome) (hx : (unpackIn w).rxv = r.isSome)
    (ht : (unpackIn w).tick = t) : ∃ m k, inRow (channelInstr c r t) = some (m, k) ∧ w &&& k = m := by
  match c, r, t with
  | some d, r, t => exact ⟨_, _, rfl, (and_flagMask w true true false false).trans (by simp [hr, ha]; decide)⟩
  | none, some b, t => exact ⟨_, _, rfl, (and_flagMask w true false true false).trans (by simp [hr, hx]; decide)⟩
  | none, none, true => exact ⟨_, _, rfl, (and_flagMask w true false false true).trans (by simp [hr, ht]; decide)⟩
  | none, none, false => exact ⟨_, _, rfl, (and_flagMask w true false true false).trans (by simp [hr, hx]; decide)⟩

/-- Settles O4: a row tests only one-bit fields, and these decide the channels the decoder reads. -/
theorem wordLiesInItsRow : Obligations.WordLiesInItsRow := by
  refine ⟨fun w => ?_, fun w hr => ?_⟩
  · rw [decodeIn_eq]
    cases hr : (unpackIn w).rst with
    | true => exact ⟨_, _, rfl, (and_flagMask w true false false false).trans (by simp [hr]; decide)⟩
    | false => exact channelInstr_inRow hr (cmdOf_isSome _).symm (rxOf_isSome _).symm rfl
  · have hrst : (unpackIn w).rst = false := hr
    have hmask : w &&& 0x8000200 = packIn ⟨false, false, 0, (unpackIn w).rxv, 0, false⟩ :=
      (and_flagMask w true false true false).trans (by simp [hrst])
    rw [hmask]
    cases (unpackIn w).rxv <;> decide

end Sys2Proof.Machine
end

section
/-! Frames, OUT words and codes, and the decoder against the encoder (spec/30_encoding.md R72, R74 to R77, R80, R84, R85). -/

namespace Sys2Proof.Machine

open Sys2Proof

/-! ## A frame and its vector (R72), the fields of OUT (R74) -/

theorem bitsFrame_getElem (w : BitVec 72) (i : Fin 9) : (bitsFrame w)[i.val] = w.extractLsb' (64 - 8 * i.val) 8 := by
  fin_cases i <;> rfl

@[simp] theorem bitsFrame_frameBits (f : Frame) : bitsFrame (frameBits f) = f := by
  apply Vector.ext
  intro i hi
  rw [bitsFrame_getElem _ ⟨i, hi⟩]
  exact frameBits_extractLsb' f ⟨i, hi⟩

/-- Neighbouring bytes of a vector, put side by side again, are the vector. -/
@[simp] theorem frameBits_bitsFrame (w : BitVec 72) : frameBits (bitsFrame w) = w := by
  simp [frameBits, bitsFrame, BitVec.extractLsb'_append_extractLsb'_eq_extractLsb', -Nat.reduceAdd]

/-- Settles O7. -/
theorem frameAndOutVectors : Obligations.FrameAndOutVectors := by
  refine ⟨bitsFrame_frameBits, frameBits_bitsFrame, fun o => ⟨?_, ?_, ?_, ?_, ?_, ?_, ?_⟩⟩
  · simp [packOut, BitVec.extractLsb'_append_eq_of_le, -Nat.reduceAdd]
  · simp [packOut, BitVec.extractLsb'_append_eq_of_le, BitVec.extractLsb'_append_eq_of_add_le, -Nat.reduceAdd]
  · simp [packOut, BitVec.extractLsb'_append_eq_of_le, BitVec.extractLsb'_append_eq_of_add_le, -Nat.reduceAdd]
  all_goals
    simp only [packOut, BitVec.getLsbD_append]
    simp

/-! ## Codes and the concentration (R75, R76, R80) -/

/-- Settles O37: `err` follows the state alone. -/
theorem stateAndErrorCodes : Obligations.StateAndErrorCodes := by
  refine ⟨rfl, rfl, rfl, rfl, rfl, rfl, rfl, rfl, rfl, fun x => ?_, fun e => ?_, fun f => ?_⟩
  · cases x <;> decide
  · cases e <;> decide
  · cases hst : f.st <;> simp [errOut, hst, stError, errorCode, stCode]

/-- Settles O60: the low byte is below 256, so joining is adding. -/
theorem concentrationIsBigEndian : Obligations.ConcentrationIsBigEndian := by
  intro f
  have hlow := f[3].isLt
  rw [ppmOf, BitVec.toNat_append, ← Nat.shiftLeft_add_eq_or_of_lt hlow, Nat.shiftLeft_eq]
  omega

/-! ## Command codes and argument blocks (R77, R81) -/

/-- The Command enumeration as a list. -/
def commands : List Command :=
  [.readConcentration, .calibrateZeroPoint, .calibrateSpanPoint, .setAutoCalibration, .setDetectionRange]

theorem mem_commands (c : Command) : c ∈ commands := by cases c <;> decide

theorem params_wf_iff {p : Params} : p.wf = true ↔ (commands.map (commandCode p)).Nodup := decide_eq_true_iff

/-- Distinct codes tell the commands apart. -/
theorem commandCode_inj {p : Params} (h : p.wf = true) {c d : Command} : commandCode p c = commandCode p d ↔ c = d :=
  ⟨List.inj_on_of_nodup_map (params_wf_iff.1 h) (mem_commands c) (mem_commands d), congrArg _⟩

theorem autoCalArgs_inj {d e : Bool} : autoCalArgs d = autoCalArgs e ↔ d = e := by
  cases d <;> cases e <;> decide

/-! ## Decoding a built frame (R84, R85) -/

@[simp] theorem frameArgs_buildFrame (c : Byte) (a : Args) : frameArgs (buildFrame c a) = a := by
  apply Vector.ext
  intro i hi
  interval_cases i <;> rfl

theorem lineWf_builtFrame (c : Byte) (a : Args) : (Line.frame (frameBits (buildFrame c a))).wf = true := by
  have hmarker : (frameBits (buildFrame c a)).extractLsb' 64 8 = Config.startMarker := frameBits_extractLsb' _ 0
  have hdevice : (frameBits (buildFrame c a)).extractLsb' 56 8 = Config.deviceId := frameBits_extractLsb' _ 1
  simp [Line.wf, hmarker, hdevice]

/-- A built frame passes the two constants, and what is left of the decoder is the choice of the command. -/
theorem decodeFrame_builtFrame (p : Params) (c : Byte) (a : Args) :
    decodeFrame p (frameBits (buildFrame c a)) =
      if c = commandCode p .readConcentration ∧ a = zeroArgs then .ok .fReadConcentration
      else if c = commandCode p .calibrateZeroPoint then .ok (.fCalibrateZeroPoint a)
      else if c = commandCode p .calibrateSpanPoint then .ok (.fCalibrateSpanPoint a)
      else if c = commandCode p .setAutoCalibration ∧ a = autoCalArgs true then .ok (.fSetAutoCalibration true)
      else if c = commandCode p .setAutoCalibration ∧ a = autoCalArgs false then .ok (.fSetAutoCalibration false)
      else if c = commandCode p .setDetectionRange then .ok (.fSetDetectionRange a)
      else .ok (.build c a) := by
  have hmarker : (buildFrame c a)[0] = Config.startMarker := rfl
  have hdevice : (buildFrame c a)[1] = Config.deviceId := rfl
  have hcode : (buildFrame c a)[2] = c := rfl
  simp only [decodeFrame, bitsFrame_frameBits, frameArgs_buildFrame, hmarker, hdevice, hcode, ne_eq, not_true, if_false]

/-! ## Encoding, then decoding -/

section

variable (p : Params) {i : Instr}

theorem encodeThenDecode_word {c : Option (BitVec 16)} {r : Option Byte} {t : Bool}
    (he : encode p i = some (.word (assembleWord false c r t))) (hi : channelInstr c r t = canonical i) :
    ∃ l, encode p i = some l ∧ l.wf = true ∧ decodeLine p l = .ok (canonical i) :=
  ⟨_, he, rfl, by rw [decodeLine, decodeIn_assembleWord, hi]⟩

theorem encodeThenDecode_frame {c : Byte} {a : Args} (he : encode p i = some (.frame (frameBits (buildFrame c a))))
    (hd : decodeFrame p (frameBits (buildFrame c a)) = .ok i) (hi : canonical i = i) :
    ∃ l, encode p i = some l ∧ l.wf = true ∧ decodeLine p l = .ok (canonical i) :=
  ⟨_, he, lineWf_builtFrame c a, by rw [decodeLine, hd, hi]⟩

theorem encodeThenDecode_call (he : encode p i = some (.call i)) (hc : i.callable = true) (hi : canonical i = i) :
    ∃ l, encode p i = some l ∧ l.wf = true ∧ decodeLine p l = .ok (canonical i) :=
  ⟨_, he, hc, by rw [decodeLine, if_pos hc, hi]⟩

end

/-- Settles O3: a word gives its channels back, a frame its code and arguments, by which distinct codes name the command, and a
call itself. -/
theorem encodeThenDecode : Obligations.EncodeThenDecode := by
  intro p i hp hi
  cases i with
  | rst => exact ⟨_, rfl, rfl, rfl⟩
  | arm d rx t => exact encodeThenDecode_word p rfl rfl
  | rxb b t => exact encodeThenDecode_word p rfl rfl
  | rxn | tick | nop => exact encodeThenDecode_word p rfl rfl
  | timeout | append _ | validate _ => cases hi
  | fReadConcentration => exact encodeThenDecode_frame p rfl (by simp [decodeFrame_builtFrame]) rfl
  | fCalibrateZeroPoint a =>
    exact encodeThenDecode_frame p rfl (by simp [decodeFrame_builtFrame, commandCode_inj hp]) rfl
  | fCalibrateSpanPoint a =>
    exact encodeThenDecode_frame p rfl (by simp [decodeFrame_builtFrame, commandCode_inj hp]) rfl
  | fSetAutoCalibration e =>
    have hd : decodeFrame p (frameBits (buildFrame (commandCode p .setAutoCalibration) (autoCalArgs e))) =
        .ok (.fSetAutoCalibration e) := by
      cases e <;> simp [decodeFrame_builtFrame, commandCode_inj hp, autoCalArgs_inj]
    exact encodeThenDecode_frame p rfl hd rfl
  | fSetDetectionRange a =>
    exact encodeThenDecode_frame p rfl (by simp [decodeFrame_builtFrame, commandCode_inj hp]) rfl
  | chk _ | build _ _ | txb _ _ | send _ _ | collect _ | readConcentration _ | setAutoCalibration _ _ | setRange =>
    exact encodeThenDecode_call p rfl rfl rfl

/-- Settles O2: each word is a closed term, evaluated through the decoder. -/
theorem wordsOfTheSpecDecode : Obligations.WordsOfTheSpecDecode := by
  refine ⟨?_, ?_, ?_, ?_, ?_, ?_, ?_, ?_, ?_, ?_, ?_, ?_, ?_, ?_, ?_⟩ <;> decide

end Sys2Proof.Machine
end

section
/-! The step as the decoded line's meaning, and READ_CONCENTRATION against its ten lines (spec/00_scope.md R6, R7, spec/30_encoding.md
R89, R90). -/

namespace Sys2Proof.Machine

open Sys2Proof

/-! ## One step (R6, R7, R89) -/

theorem step_of_decodes {s : State} {l : Line} {ls : List Line} {i : Instr} (hl : s.lines = l :: ls)
    (hd : decodeLine s.params l = .ok i) : step s = exec i { s with lines := ls } := by
  simp only [step, fetchLine, dropLine, hl, hd, List.tail_cons]

theorem step_of_decode_error {s : State} {l : Line} {ls : List Line} {e : DecodeError} (hl : s.lines = l :: ls)
    (hd : decodeLine s.params l = .error e) : step s = .refused .undecodable := by
  simp only [step, fetchLine, hl, hd]

theorem step_of_no_line {s : State} (hl : s.lines = []) : step s = exec (decodeIn (Config.freeInput s.clk)) s := by
  obtain ⟨fcv, tx, scratch, session, ret, lines, clk, params⟩ := s
  cases hl
  rfl

/-- Settles O1. -/
theorem stepRunsTheDecodedLine : Obligations.StepRunsTheDecodedLine :=
  ⟨fun _ _ _ _ => step_of_decodes, fun _ _ _ _ => step_of_decode_error, fun _ => step_of_no_line⟩

theorem runSteps_succ {n : Nat} {s t : State} (h : step s = .next t) : runSteps (n + 1) s = runSteps n t := by
  simp only [runSteps, h]

/-! ## The lines of an expansion, outside AWAIT (R90) -/

theorem blockAfter_quiet (n : Nat) {f : Fcv} (h : f.st ≠ .await) : blockAfter (List.replicate n .quiet) f = f := by
  induction n with
  | zero => rfl
  | succ n ih =>
    have hquiet : stepFcv (channels none EnvCycle.quiet.rx EnvCycle.quiet.tick) f = f := stepFcv_quiet h
    rw [List.replicate_succ, blockAfter, List.foldl_cons, hquiet]
    exact ih

/-- The line of a write in a script: one quiet cycle, the byte accepted, as in `txLines`. -/
def quietTxb (b : Byte) : Line := .call (.txb b ⟨true, [.quiet]⟩)

theorem exec_quietTxb (b : Byte) {s : State} (hw : waiting s = false) (hst : s.fcv.st ≠ .await) :
    exec (.txb b ⟨true, [.quiet]⟩) s = .next { s with clk := s.clk + 1, tx := s.tx ++ [b], ret := .ok } := by
  have hblock : blockAfter [.quiet] s.fcv = s.fcv := blockAfter_quiet 1 hst
  refine (hostCall_of_not_waiting hw _).trans ?_
  rw [writeByte_eq b _ s hw fun h => absurd h hst, andThen_next]
  simp [hblock]

theorem step_quietTxb {s : State} {b : Byte} {ls : List Line} (hw : waiting s = false) (hst : s.fcv.st ≠ .await)
    (hl : s.lines = quietTxb b :: ls) :
    step s = .next { s with lines := ls, clk := s.clk + 1, tx := s.tx ++ [b], ret := .ok } :=
  (step_of_decodes hl rfl).trans (exec_quietTxb b (s := { s with lines := ls }) hw hst)

/-- Steps over the writes of a script send their bytes, one cycle each, and leave the block; what is returned last stays open. -/
theorem runSteps_quietTxbs (bs : List Byte) (ls : List Line) (n : Nat) (s : State) (hw : waiting s = false)
    (hst : s.fcv.st ≠ .await) (hl : s.lines = bs.map quietTxb ++ ls) :
    ∃ r, runSteps (n + bs.length) s =
      runSteps n { s with lines := ls, clk := s.clk + bs.length, tx := s.tx ++ bs, ret := r } := by
  induction bs generalizing s with
  | nil => exact ⟨s.ret, by simp [show ls = s.lines from hl.symm]⟩
  | cons b bs ih =>
    obtain ⟨r, hrest⟩ :=
      ih { s with lines := bs.map quietTxb ++ ls, clk := s.clk + 1, tx := s.tx ++ [b], ret := .ok } hw hst rfl
    refine ⟨r, (runSteps_succ (step_quietTxb hw hst hl)).trans (hrest.trans ?_)⟩
    simp [Nat.add_assoc, Nat.add_comm 1]

theorem exec_armWord (d : BitVec 16) {s : State} (hw : waiting s = false) (hst : s.fcv.st ≠ .await) :
    exec (.arm d none false) s = .next { s with fcv := armAccept d s.fcv, clk := s.clk + 1 } := by
  refine (clockCycle_of_inside (offsetMissing_of_fill fun h => absurd h hst)).trans ?_
  rw [clocked_of_not_waiting hw, stepFcv_armAccept rfl rfl hst]
  rfl

theorem step_armWord {s : State} {d : BitVec 16} {ls : List Line} (hw : waiting s = false) (hst : s.fcv.st ≠ .await)
    (hl : s.lines = .word (assembleWord false (some d) none false) :: ls) :
    step s = .next { s with lines := ls, fcv := armAccept d s.fcv, clk := s.clk + 1 } :=
  (step_of_decodes hl (congrArg Except.ok (decodeIn_assembleWord _ _ _))).trans
    (exec_armWord d (s := { s with lines := ls }) hw hst)

/-! ## The instruction with every write accepted and no word after it (R164) -/

theorem exec_readConcentration_accepted (during : Vector (List EnvCycle) 9) (c : EnvCycle) {s : State}
    (hw : waiting s = false) (hst : s.fcv.st ≠ .await) (hl : s.lines = []) :
    exec (.readConcentration ⟨⟨none, during⟩, c⟩) s = .next { s with
      fcv := armAccept Config.timeoutTicks (blockAfter (cyclesOf during 9) s.fcv)
      tx := s.tx ++ (buildFrame (commandCode s.params .readConcentration) zeroArgs).toList
      scratch := buildFrame (commandCode s.params .readConcentration) zeroArgs
      session := .awaitingResponse .readConcentration
      lines := []
      clk := s.clk + (cyclesOf during 9).length + 1 } := by
  have harm : (blockAfter (cyclesOf during 9) s.fcv).st ≠ .await := by rwa [blockAfter_not_await _ _ hst]
  refine (hostCall_of_not_waiting hw _).trans
    ((sendFrame_accepted _ during _ (buildInto _ _ s) fun h => absurd h hst).trans ?_)
  rw [startCollect_accepted _ _ _ rfl harm, andThen_next, hl]
  rfl

theorem cyclesOf_quiet : cyclesOf (Vector.replicate 9 [EnvCycle.quiet]) 9 = List.replicate 9 .quiet := by decide

/-- Settles O59: nine quiet writes and an accepted ARM, run as ten lines or within the one call. -/
theorem readConcentrationMatchesItsExpansion : Obligations.ReadConcentrationMatchesItsExpansion := by
  intro s hw _ hst
  obtain ⟨r, hwrites⟩ := runSteps_quietTxbs (buildFrame (commandCode s.params .readConcentration) zeroArgs).toList
    [.word (assembleWord false (some Config.timeoutTicks) none false)] 1
    { s with lines := expand s.params .readConcentration } hw hst rfl
  have hcall :=
    exec_readConcentration_accepted (Vector.replicate 9 [.quiet]) .quiet (s := { s with lines := [] }) hw hst rfl
  simp only [cyclesOf_quiet, blockAfter_quiet 9 hst, List.length_replicate] at hcall
  exact ⟨_, _, hwrites.trans (runSteps_succ (step_armWord hw hst rfl)), hcall, rfl, rfl, rfl, rfl⟩

end Sys2Proof.Machine
end

section
/-! The checksum as a sum of bytes, and a well-formed sequence as nine bytes that sum to 0xFF (spec/40_checksum.md R100 to R105). -/

namespace Sys2Proof.Machine

open Sys2Proof

/-! ## The eight bytes and their 8-bit sum -/

theorem payload_eta (l : Payload) : #v[l[0], l[1], l[2], l[3], l[4], l[5], l[6], l[7]] = l := by
  apply Vector.ext
  intro i hi
  interval_cases i <;> rfl

theorem payload_toList (l : Payload) : l.toList = [l[0], l[1], l[2], l[3], l[4], l[5], l[6], l[7]] :=
  (congrArg Vector.toList (payload_eta l)).symm

theorem sum_toList (l : Payload) : l.toList.sum = l[0] + l[1] + l[2] + l[3] + l[4] + l[5] + l[6] + l[7] := by
  rw [payload_toList]
  simp [BitVec.add_assoc]

/-- Adding in a byte is the exact sum modulo 256. -/
theorem toNat_sum_toList (l : Payload) : l.toList.sum.toNat = sumBytes l % 256 := by
  simp only [sum_toList, BitVec.toNat_add, sumBytes]
  omega

theorem sumBytes_le (l : Payload) : sumBytes l ≤ 2040 := by
  unfold sumBytes
  omega

/-! ## CHK (R100, R101, R104) -/

theorem toNat_chk (l : Payload) : (chk l).toNat = 255 - sumBytes l % 256 := by
  simp only [chk, BitVec.toNat_ofNat]
  omega

theorem toNat_chkAlt (l : Payload) : (chkAlt l).toNat = (256 - sumBytes l % 256) % 256 := by
  simp only [chkAlt, BitVec.toNat_ofNat]
  omega

/-- Taking a byte from 255 is the complement: no borrow can occur. -/
theorem chk_eq_not_sum (l : Payload) : chk l = ~~~l.toList.sum := by
  apply BitVec.eq_of_toNat_eq
  rw [toNat_chk, BitVec.toNat_not, toNat_sum_toList]

theorem chk_eq_sub_sum (l : Payload) : chk l = 0xFF - l.toList.sum := by
  rw [chk_eq_not_sum]
  bv_omega

theorem eq_chk_iff_sum (l : Payload) (c : Byte) : c = chk l ↔ l.toList.sum + c = 0xFF := by
  rw [chk_eq_sub_sum, eq_sub_iff_add_eq']

theorem chkAlt_eq_chk_add_one (l : Payload) : chkAlt l = chk l + 1 := by
  have hchk := toNat_chk l
  have halt := toNat_chkAlt l
  bv_omega

/-- Settles O8: the byte is `chk`, and `ret` alone is written. -/
theorem checksumIs255LessTheSum : Obligations.ChecksumIs255LessTheSum :=
  fun l _ => ⟨chk l, rfl, toNat_chk l⟩

/-- Settles O9: each form is the sum of the bytes in 8 bits, which has no order, or the exact sum, which `2 ^ n` reduces no further
than 256 does. -/
theorem checksumEquivalentForms : Obligations.ChecksumEquivalentForms := by
  intro l
  refine ⟨?complement, ?differences, ?ninth, fun m hm => ?order, fun n hn => ?width, sumBytes_le l, rfl⟩
  case complement => rw [chk_eq_not_sum, sum_toList]
  case differences =>
    rw [chk_eq_sub_sum, sum_toList]
    simp only [sub_sub]
  case ninth =>
    intro c
    rw [eq_chk_iff_sum, sum_toList]
  case order => rw [chk_eq_not_sum, chk_eq_not_sum, hm.sum_eq]
  case width =>
    have hdvd : 256 ∣ 2 ^ n := pow_dvd_pow 2 hn
    rw [toNat_chk, Nat.mod_mod_of_dvd _ hdvd]

/-- Settles O10: the two formulas are one apart, and no byte is its own successor. -/
theorem forbiddenChecksumNeverAgrees : Obligations.ForbiddenChecksumNeverAgrees := by
  refine ⟨fun l => ⟨toNat_chkAlt l, chkAlt_eq_chk_add_one l, ?_⟩, by decide, by decide⟩
  rw [chkAlt_eq_chk_add_one]
  bv_omega

/-! ## Well-formed sequences (R102, R105) -/

theorem wf_append_iff (l : Payload) (c : Byte) : wf (l.toList ++ [c]) = true ↔ c = chk l := by
  simp [payload_toList, wf, payload_eta]

theorem wf_iff_checksum_last (F : List Byte) :
    wf F = true ↔ ∃ (l : Payload) (c : Byte), F = l.toList ++ [c] ∧ c = chk l := by
  constructor
  · intro h
    unfold wf at h
    split at h
    · exact ⟨_, _, rfl, beq_iff_eq.1 h⟩
    · cases h
  · rintro ⟨l, c, rfl, hc⟩
    exact (wf_append_iff l c).2 hc

/-- Settles O11. -/
theorem wellFormedIsLengthAndChecksum : Obligations.WellFormedIsLengthAndChecksum :=
  wf_iff_checksum_last

/-- By R101(c), which treats the nine bytes alike. -/
theorem wf_toList_iff_sum (F : Frame) : wf F.toList = true ↔ F.toList.sum = 0xFF := by
  obtain ⟨l, c, rfl⟩ : ∃ (l : Payload) (c : Byte), F = l.push c := ⟨F.pop, F.back, F.push_pop_back.symm⟩
  rw [Vector.toList_push, wf_append_iff, eq_chk_iff_sum, List.sum_append, List.sum_singleton]

theorem sum_toList_set (F : Frame) (i : Fin 9) (v : Byte) :
    (F.set i.val v).toList.sum = F.toList.sum + (-F[i.val] + v) := by
  rw [Vector.toList_set, List.sum_set', dif_pos (by simp), Vector.getElem_toList]

/-- Settles O12: a changed byte changes the sum, and an order does not. -/
theorem whatTheChecksumDetects : Obligations.WhatTheChecksumDetects := by
  refine ⟨fun F i v hF hv => ?change, fun F G hF hG => ?order⟩
  case change =>
    rw [wf_toList_iff_sum] at hF
    rw [← Bool.not_eq_true, wf_toList_iff_sum, sum_toList_set, hF, add_eq_left, neg_add_eq_zero]
    exact hv.symm
  case order =>
    rw [wf_toList_iff_sum] at hF ⊢
    rwa [hG.sum_eq]

end Sys2Proof.Machine
end

section
/-! The Frame Builder: what it places, the frames of the five commands, and a built frame looped back into an armed collector
(spec/41_frame_builder.md R110 to R116). -/

namespace Sys2Proof.Machine

open Sys2Proof

/-! ## What BUILD places (R110) -/

/-- The two constants add up to 256 and drop out of the checksum. -/
theorem toNat_buildFrame_checksum (c : Byte) (a : Args) :
    (buildFrame c a)[8].toNat =
      255 - (c.toNat + a[0].toNat + a[1].toNat + a[2].toNat + a[3].toNat + a[4].toNat) % 256 := by
  have hsum : sumBytes (payload (buildFrame c a)) =
      0xFF + 0x01 + c.toNat + a[0].toNat + a[1].toNat + a[2].toNat + a[3].toNat + a[4].toNat := rfl
  calc (buildFrame c a)[8].toNat
      = 255 - sumBytes (payload (buildFrame c a)) % 256 := toNat_chk _
    _ = _ := by rw [hsum]; omega

/-- Settles O13: the frame is `buildFrame`, byte by byte as R110 lists it. -/
theorem buildPlacesEveryByte : Obligations.BuildPlacesEveryByte :=
  fun c a _ => ⟨buildFrame c a, rfl, rfl, rfl, rfl, rfl, rfl, rfl, rfl, rfl, rfl, toNat_buildFrame_checksum c a⟩

/-! ## The frames of the commands (R112 to R116) -/

/-- Settles O15: the two rows are calls of the builder, and their argument blocks hold at most one byte that is not zero. -/
theorem sessionFramesAreBuilt : Obligations.SessionFramesAreBuilt := by
  refine ⟨fun s => rfl, fun e s => rfl, fun c => ⟨?on, ?zeros⟩, by decide, by decide, by decide⟩
  case on => exact toNat_buildFrame_checksum c #v[0xA0, 0, 0, 0, 0]
  case zeros => exact (toNat_buildFrame_checksum c zeroArgs).trans (congrArg (255 - ·) (Nat.mod_eq_of_lt c.isLt))

/-- Settles O16: the three rows are calls of the builder, which writes scratch and the returned value alone. -/
theorem unwiredFramesAreBuilt : Obligations.UnwiredFramesAreBuilt :=
  ⟨fun _ _ => ⟨rfl, rfl, rfl⟩, by decide, by decide, by decide⟩

/-! ## The countdown (R125, R132) -/

@[simp] theorem takeByte_cnt (b : Byte) (f : Fcv) : (takeByte b f).cnt = f.cnt := by
  unfold takeByte; split <;> simp

@[simp] theorem poll_cnt (rx : Option Byte) (f : Fcv) : (poll rx f).cnt = f.cnt := by
  obtain ⟨-, h⟩ | ⟨-, -, h⟩ | ⟨-, -, b, -, h⟩ := poll_cases rx f <;> simp [h]

theorem afterPoll_cnt_toNat (p : InPorts) (f : Fcv) :
    (afterPoll p f).cnt.toNat = if p.tick then f.cnt.toNat - 1 else f.cnt.toNat := by
  cases ha : p.arm <;> cases ht : p.tick <;> simp [afterPoll, ha, ht, countTick_cnt_toNat]

/-- The column of `cnt` in the state-transfer table (R132). -/
theorem stepFcv_cnt_toNat (p : InPorts) (f : Fcv) : (stepFcv p f).cnt.toNat = nextCnt p f := by
  obtain ⟨hr, h⟩ | ⟨hr, ha, hst, h⟩ | ⟨hr, ha, h⟩ := stepFcv_cases p f
  · simp [h, nextCnt, hr]
  · simp [h, nextCnt, hr, ha, hst]
  · obtain ha | hst := ha
    · simp [h, nextCnt, hr, ha, afterPoll_cnt_toNat]
    · simp [h, nextCnt, hr, hst, afterPoll_cnt_toNat]

theorem tickCount_cons (w : BitVec 28) (ws : List (BitVec 28)) :
    tickCount (w :: ws) = tickCount ws + if (unpackIn w).tick then 1 else 0 := List.countP_cons

/-- A word of the other agents takes from the countdown the tick it holds, and leaves the rest of the words their ticks. -/
theorem tickCount_lt_stepFcv {w : BitVec 28} {ws : List (BitVec 28)} {f : Fcv} (henv : envWord w = true)
    (h : tickCount (w :: ws) < f.cnt.toNat) : tickCount ws < (stepFcv (unpackIn w) f).cnt.toNat := by
  obtain ⟨hr, ha⟩ := envWord_iff.1 henv
  rw [tickCount_cons] at h
  rw [stepFcv_cnt_toNat]
  cases ht : (unpackIn w).tick <;> simp [nextCnt, hr, ha, ht] at h ⊢ <;> omega

/-! ## A well-formed frame on its way into the collector (R111, R130, R131) -/

theorem wf_toList_iff_checksum (F : Frame) : wf F.toList = true ↔ F[8] = chk (payload F) := by
  obtain ⟨l, c, rfl⟩ : ∃ (l : Payload) (c : Byte), F = l.push c := ⟨F.pop, F.back, F.push_pop_back.symm⟩
  rw [Vector.toList_push, wf_append_iff]
  simp [payload, payload_eta]

theorem payload_getElem (F : Frame) (i : Fin 8) : (payload F)[i.val] = F[i.val] := by
  fin_cases i <;> rfl

theorem wf_buildFrame (c : Byte) (a : Args) : wf (buildFrame c a).toList = true :=
  (wf_toList_iff_checksum _).2 rfl

/-- The collector holds the first bytes of `F`, the bytes `rest` of it are still to come, and it is in AWAIT exactly until the
ninth is stored. -/
structure Receives (F : Frame) (f : Fcv) (rest : List Byte) : Prop where
  stored : ∀ i : Fin 9, i.val < f.fill.val → f.buf[i.val] = F[i.val]
  coming : F.toList.drop f.fill.val = rest
  state : f.st = if f.fill = 9 then .done else .await

theorem receives_of_armed (F : Frame) {f : Fcv} (hst : f.st = .await) (hfill : f.fill = 0) : Receives F f F.toList where
  stored i h := by simp [hfill] at h
  coming := by simp [hfill]
  state := by simp [hfill, hst]

section

variable {F : Frame} {f g : Fcv} {rest : List Byte}

theorem Receives.congr (h : Receives F f rest) (hst : g.st = f.st) (hfill : g.fill = f.fill) (hbuf : g.buf = f.buf) :
    Receives F g rest where
  stored := by rw [hfill, hbuf]; exact h.stored
  coming := by rw [hfill]; exact h.coming
  state := by rw [hst, hfill]; exact h.state

theorem Receives.fill_le_eight (h : Receives F f rest) (hst : f.st = .await) : f.fill ≤ 8 := by
  have h9 : f.fill ≠ 9 := fun h9 => by simp [h.state, h9] at hst
  omega

/-- With a byte to come the collector has an offset for it: it is the byte of `F` there. -/
theorem Receives.next_byte {b : Byte} (h : Receives F f (b :: rest)) :
    ∃ hlt : f.fill.val < 9, b = F[f.fill.val] ∧ F.toList.drop (f.fill.val + 1) = rest := by
  have hlt : f.fill.val < 9 := by
    by_contra hge
    simpa [List.drop_of_length_le, Nat.not_lt.1 hge] using h.coming
  have hdrop := h.coming
  rw [List.drop_eq_getElem_cons (by simpa using hlt), List.cons.injEq] at hdrop
  exact ⟨hlt, by simpa using hdrop.1.symm, hdrop.2⟩

/-- With eight bytes stored the checksum is computed over those of `F`. -/
theorem Receives.payload_eq (h : Receives F f rest) (h8 : f.fill = 8) : payload f.buf = payload F := by
  apply Vector.ext
  intro i hi
  have hstored : f.buf[i] = F[i] := h.stored ⟨i, by omega⟩ (by rw [h8]; exact hi)
  exact (payload_getElem f.buf ⟨i, hi⟩).trans (hstored.trans (payload_getElem F ⟨i, hi⟩).symm)

/-- With no byte to come the whole frame has been taken. -/
theorem Receives.ends_in_done (h : Receives F f []) : f.st = .done ∧ f.buf = F := by
  have h9 : f.fill = 9 := by
    have hlen : F.toList.length ≤ f.fill.val := List.drop_eq_nil_iff.1 h.coming
    rw [Vector.length_toList] at hlen
    omega
  refine ⟨by rw [h.state, if_pos h9], Vector.ext fun i hi => h.stored ⟨i, hi⟩ ?_⟩
  rw [h9]
  exact hi

/-- Taking the next byte: the ninth is the checksum the collector computes. -/
theorem receives_takeByte {b : Byte} (hF : wf F.toList = true) (h : Receives F f (b :: rest)) :
    Receives F (takeByte b f) rest := by
  obtain ⟨hlt, rfl, hcoming⟩ := h.next_byte
  have hne : f.fill ≠ 9 := by omega
  have hfill : (takeByte F[f.fill.val] f).fill.val = f.fill.val + 1 := takeByte_fill_val hne _
  refine ⟨fun i hi => ?stored, by rw [hfill, hcoming], ?state⟩
  case stored =>
    rw [hfill] at hi
    rw [takeByte_buf_getElem hne]
    split
    · next hi' => simp only [hi']
    · next hi' => exact h.stored i (by omega)
  case state =>
    obtain h7 | h8 := fill_le_eight_cases hne
    · have h9 : f.fill + 1 ≠ 9 := fun h9 => absurd (congrArg Fin.val h9) (by rw [fill_succ_val h7]; omega)
      rw [takeByte_append h7, appendByte_fill, if_neg h9, appendByte_st, h.state, if_neg hne]
    · have hchk : F[f.fill.val] = chk (payload f.buf) := by
        rw [h.payload_eq h8, ← (wf_toList_iff_checksum F).1 hF]
        simp only [h8]
        rfl
      rw [takeByte_validate h8, validateByte_fill, validateByte_st, if_pos hchk, if_pos rfl]

/-- One word of the other agents, the deadline not yet reached: a byte it offers is taken, and a word without one changes nothing
of what is received. -/
theorem receives_stepFcv {p : InPorts} (hF : wf F.toList = true) (hr : p.rst = false) (ha : p.arm = false)
    (hcnt : f.cnt ≠ 0#16) (h : Receives F f ((rxOf p).toList ++ rest)) : Receives F (stepFcv p f) rest := by
  have hpoll : Receives F (poll (rxOf p) f) rest := by
    cases hrx : rxOf p with
    | none => rw [poll_none hcnt]; simpa [hrx] using h
    | some b =>
      rw [hrx] at h
      obtain ⟨hlt, -, -⟩ := h.next_byte
      have hst : f.st = .await := by rw [h.state, if_neg (by omega)]
      rw [poll_some hst hcnt]
      exact receives_takeByte hF h
  have hstep : stepFcv p f = afterPoll p (poll (rxOf p) f) := stepFcv_poll hr (.inl ha)
  rw [hstep]
  exact hpoll.congr (afterPoll_st ..) (afterPoll_fill ..) (afterPoll_buf ..)

end

/-! ## The loop-back (R111) -/

theorem runWords_cons (w : BitVec 28) (ws : List (BitVec 28)) (s : State) :
    runWords (w :: ws) s = andThen (clockCycle (unpackIn w) s) (runWords ws) := by
  rw [← exec_decodeIn]
  rfl

/-- Words of the other agents that offer what is to come of a well-formed frame, with fewer ticks than are left, deliver all of it. -/
theorem runWords_receives {F : Frame} (hF : wf F.toList = true) (ws : List (BitVec 28)) (s : State)
    (henv : ∀ w ∈ ws, envWord w = true) (hticks : tickCount ws < s.fcv.cnt.toNat)
    (h : Receives F s.fcv (ws.filterMap fun w => rxOf (unpackIn w))) :
    ∃ t, runWords ws s = .next t ∧ Receives F t.fcv [] := by
  induction ws generalizing s with
  | nil => exact ⟨s, rfl, h⟩
  | cons w ws ih =>
    obtain ⟨hw, hws⟩ := List.forall_mem_cons.1 henv
    obtain ⟨hr, ha⟩ := envWord_iff.1 hw
    have hcnt : s.fcv.cnt ≠ 0#16 := fun h0 => by simp [h0] at hticks
    have hoffered : (w :: ws).filterMap (fun w => rxOf (unpackIn w)) =
        (rxOf (unpackIn w)).toList ++ ws.filterMap fun w => rxOf (unpackIn w) := by
      cases hrx : rxOf (unpackIn w) <;> simp [hrx]
    rw [hoffered] at h
    rw [runWords_cons, clockCycle_of_fill h.fill_le_eight, andThen_next]
    apply ih _ hws
    · rw [clocked_fcv]; exact tickCount_lt_stepFcv hw hticks
    · rw [clocked_fcv]; exact receives_stepFcv hF hr ha hcnt h

/-- Settles O14: an armed collector has all of the frame to come, and when none is left it shows it. -/
theorem builtFrameLoopsBack : Obligations.BuiltFrameLoopsBack := by
  refine ⟨wf_buildFrame, fun c a ws s _ hst hfill henv hbytes hticks => ?_⟩
  have harmed : Receives (buildFrame c a) s.fcv (ws.filterMap fun w => rxOf (unpackIn w)) := by
    rw [hbytes]
    exact receives_of_armed _ hst hfill
  obtain ⟨t, hrun, ht⟩ := runWords_receives (wf_buildFrame c a) ws s henv hticks harmed
  obtain ⟨hdone, hbuf⟩ := ht.ends_in_done
  exact ⟨t, hrun, hdone, by rw [frameOut_of_done hdone, hbuf]⟩

end Sys2Proof.Machine
end

section
/-! The input-word operations, by the state the block is in (spec/42_response_collector.md R122 to R128). -/

namespace Sys2Proof.Machine

open Sys2Proof

/-! ## RST and ARM (R122 to R124) -/

theorem rxTake_of_rst {p : InPorts} (h : p.rst = true) (f : Fcv) : rxTake f p = false := by simp [rxTake, h]

/-- Settles O17. -/
theorem resetClearsAllButTheBuffer : Obligations.ResetClearsAllButTheBuffer := by
  intro w s hw
  have hr : (unpackIn w).rst = true := hw
  refine ⟨by rw [decodeIn_eq, if_pos hr], rxTake_of_rst hr _, _, exec_rst s, ?_⟩
  rw [clocked_fcv, stepFcv_rst resetPorts_rst]
  exact ⟨rfl, rfl, rfl, rfl⟩

/-- A cycle that takes no byte completes, whatever `fill` is. -/
theorem clockCycle_of_not_rxTake {p : InPorts} {s : State} (h : rxTake s.fcv p = false) :
    clockCycle p s = .next (clocked p s) :=
  clockCycle_of_inside (by simp [offsetMissing, h])

theorem clockCycle_of_not_await {s : State} (h : s.fcv.st ≠ .await) (p : InPorts) : clockCycle p s = .next (clocked p s) :=
  clockCycle_of_not_rxTake (rxTake_of_not_await h p)

/-- Outside AWAIT the ARM is accepted, whatever the other channels of its word hold (R123). -/
theorem exec_arm_accepted (d : BitVec 16) (rx : Option Byte) (tick : Bool) {s : State} (h : s.fcv.st ≠ .await) :
    ∃ t, exec (.arm d rx tick) s = .next t ∧ t.fcv = armAccept d s.fcv :=
  ⟨_, clockCycle_of_not_await h _, by rw [clocked_fcv, stepFcv_armAccept rfl rfl h]; rfl⟩

theorem fcv_of_arm_accepted {d : BitVec 16} {rx : Option Byte} {tick : Bool} {s t : State} (hst : s.fcv.st ≠ .await)
    (h : exec (.arm d rx tick) s = .next t) : t.fcv = armAccept d s.fcv := by
  obtain ⟨t', ht', hfcv⟩ := exec_arm_accepted d rx tick hst
  rwa [← Host.Outcome.next.inj (ht'.symm.trans h)]

theorem rxTake_expired {f : Fcv} (hc : f.cnt = 0#16) (p : InPorts) : rxTake f p = false := by simp [rxTake, expired, hc]

theorem countTick_of_zero {f : Fcv} (h : f.cnt = 0#16) : countTick f = f := if_pos h

theorem countTick_of_ne_zero {f : Fcv} (h : f.cnt ≠ 0#16) : countTick f = { f with cnt := f.cnt - 1 } := if_neg h

/-- In AWAIT with `cnt = 0` every word without RST is a TIMEOUT, and its tick has nothing to count (R129). -/
theorem stepFcv_expired {p : InPorts} {f : Fcv} (hr : p.rst = false) (hst : f.st = .await) (hc : f.cnt = 0#16) :
    stepFcv p f = (if p.arm then armRefuse else id) (raiseError .timedOut f) := by
  rw [stepFcv_poll hr (.inr hst), poll_expired hst hc]
  have htick : countTick (raiseError .timedOut f) = raiseError .timedOut f := countTick_of_zero hc
  cases p.tick <;> simp [htick]

/-- The TIMEOUT under a word: it completes, whatever byte is offered. -/
theorem exec_word_expired {w : BitVec 28} {s : State} (hr : (unpackIn w).rst = false) (hst : s.fcv.st = .await)
    (hc : s.fcv.cnt = 0#16) :
    ∃ t, exec (decodeIn w) s = .next t ∧ t.fcv.st = .failedTimedOut ∧ t.fcv.fill = 0 ∧ t.fcv.buf = s.fcv.buf ∧
      t.fcv.cnt = s.fcv.cnt := by
  refine ⟨_, (exec_decodeIn w s).trans (clockCycle_of_not_rxTake (rxTake_expired hc _)), ?_⟩
  rw [clocked_fcv, stepFcv_expired hr hst hc]
  cases (unpackIn w).arm <;> exact ⟨rfl, rfl, rfl, rfl⟩

/-- Settles O18: the step is `armAccept`, and with `d = 0` it leaves the deadline already reached. -/
theorem armAcceptedOutsideAwait : Obligations.ArmAcceptedOutsideAwait := by
  intro d rx tick s hst
  obtain ⟨t, ht, hfcv⟩ := exec_arm_accepted d rx tick hst
  have hflags : busy t.fcv = true ∧ frameValid t.fcv = false ∧ errOut t.fcv = 0 ∧ frameOut t.fcv = 0 := by
    rw [hfcv]
    exact ⟨rfl, rfl, rfl, rfl⟩
  obtain ⟨hbusy, hvalid, herr, hframe⟩ := hflags
  refine ⟨rxTake_of_not_await hst _, t, ht, hfcv, hbusy, hvalid, herr, hframe, fun hd w hw => ?_⟩
  obtain ⟨u, hu, htimedOut, -⟩ := exec_word_expired (w := w) (s := t) hw (by rw [hfcv]; rfl) (by rw [hfcv]; exact hd)
  exact ⟨u, hu, htimedOut⟩

/-- A refused ARM is the flag, set after what the rest of the word does (R124). -/
theorem stepFcv_armRefused (d : BitVec 16) (rx : Option Byte) (tick : Bool) {f : Fcv} (h : f.st = .await) :
    stepFcv (channels (some d) rx tick) f = armRefuse (stepFcv (channels none rx tick) f) := by
  rw [stepFcv_poll rfl (.inr h), stepFcv_poll rfl (.inr h), rxOf_channels, rxOf_channels]
  rfl

theorem exec_word_keeps_faultBusy {w : BitVec 28} {s t : State} (hr : (unpackIn w).rst = false)
    (hfb : s.fcv.faultBusy = true) (h : exec (decodeIn w) s = .next t) : t.fcv.faultBusy = true := by
  rw [exec_decodeIn] at h
  obtain ⟨-, rfl⟩ := clockCycle_next h
  rw [clocked_fcv, stepFcv_faultBusy]
  simp [nextFaultBusy, hr, hfb]

/-- Settles O19. -/
theorem armRefusedInAwait : Obligations.ArmRefusedInAwait := by
  intro d rx tick s hst hfill
  have hrest : exec (decodeIn (packIn (channels none rx tick))) s = .next (clocked (channels none rx tick) s) := by
    rw [exec_decodeIn, unpackIn_packIn, clockCycle_of_fill fun _ => hfill]
  have hblock : (clocked (channels (some d) rx tick) s).fcv = armRefuse (clocked (channels none rx tick) s).fcv := by
    rw [clocked_fcv, clocked_fcv, stepFcv_armRefused d rx tick hst]
  refine ⟨_, _, hrest, clockCycle_of_fill (fun _ => hfill) _, hblock, by rw [hblock]; rfl, fun w v hw hv => ?_⟩
  exact exec_word_keeps_faultBusy hw (by rw [hblock]; rfl) hv

/-! ## TICK (R125) -/

theorem afterPoll_cnt (p : InPorts) (f : Fcv) :
    (afterPoll p f).cnt = if p.tick ∧ f.cnt ≠ 0#16 then f.cnt - 1 else f.cnt := by
  have htick : (countTick f).cnt = if f.cnt ≠ 0#16 then f.cnt - 1 else f.cnt := by
    by_cases h : f.cnt = 0#16
    · simp [countTick_of_zero h, h]
    · simp [countTick_of_ne_zero h, h]
  cases ha : p.arm <;> cases ht : p.tick <;> simp [afterPoll, ha, ht, htick]

/-- Settles O20: an accepted ARM loads `cnt`; any other step leaves it to its tick. -/
theorem tickCountsDownInEveryState : Obligations.TickCountsDownInEveryState := by
  intro w s t hr h
  rw [exec_decodeIn] at h
  obtain ⟨-, rfl⟩ := clockCycle_next h
  refine ⟨fun ha hst => ?_, fun hn => ?_⟩
  · rw [clocked_fcv, stepFcv_armAccept hr ha hst, armAccept_cnt]
  · have hpoll : (unpackIn w).arm = false ∨ s.fcv.st = .await := by
      simpa [Decidable.or_iff_not_imp_left] using hn
    have hcnt : (clocked (unpackIn w) s).fcv.cnt =
        if (unpackIn w).tick ∧ s.fcv.cnt ≠ 0#16 then s.fcv.cnt - 1 else s.fcv.cnt := by
      have hstep : stepFcv (unpackIn w) s.fcv = afterPoll (unpackIn w) (poll (rxOf (unpackIn w)) s.fcv) :=
        stepFcv_poll hr hpoll
      rw [clocked_fcv, hstep, afterPoll_cnt, poll_cnt]
    simp only [expired, hcnt]
    refine ⟨fun ht hc => ?_, fun ht hc => ?_, fun hc => ?_, fun ht => ?_⟩ <;> simp [*]

/-! ## The receive and the tick channel alone (R126 to R128) -/

theorem clockCycle_no_byte (tick : Bool) (s : State) :
    clockCycle (channels none none tick) s = .next (clocked (channels none none tick) s) :=
  clockCycle_of_not_rxTake (by simp [rxTake])

/-- A word that names neither RST nor ARM is a poll, and then its tick. -/
theorem stepFcv_channels (rx : Option Byte) (tick : Bool) (f : Fcv) :
    stepFcv (channels none rx tick) f = (if tick then countTick else id) (poll rx f) := by
  rw [stepFcv_poll rfl (.inl rfl), rxOf_channels]
  rfl

/-- The tick beside a poll that leaves a deadline to count. -/
theorem stepFcv_channels_of_cnt {rx : Option Byte} {f : Fcv} (hc : f.cnt ≠ 0#16) (tick : Bool) :
    stepFcv (channels none rx tick) f = { poll rx f with cnt := if tick then f.cnt - 1 else f.cnt } := by
  have hc' : (poll rx f).cnt ≠ 0#16 := by rwa [poll_cnt]
  rw [stepFcv_channels]
  cases tick with
  | true => simp [countTick_of_ne_zero hc']
  | false => rw [← poll_cnt rx f]; rfl

theorem stepFcv_channels_expired (rx : Option Byte) (tick : Bool) {f : Fcv} (hst : f.st = .await) (hc : f.cnt = 0#16) :
    stepFcv (channels none rx tick) f = raiseError .timedOut f :=
  stepFcv_expired rfl hst hc

/-- Outside AWAIT such a word counts its tick, and whatever byte it offers is left. -/
theorem stepFcv_channels_of_not_await (rx : Option Byte) (tick : Bool) {f : Fcv} (hst : f.st ≠ .await) :
    stepFcv (channels none rx tick) f = { f with cnt := if tick ∧ f.cnt ≠ 0#16 then f.cnt - 1 else f.cnt } := by
  by_cases hc : f.cnt = 0#16
  · have hkeep : (if tick ∧ f.cnt ≠ 0#16 then f.cnt - 1 else f.cnt) = f.cnt := if_neg fun h => h.2 hc
    rw [stepFcv_channels, poll_of_not_await hst, hkeep]
    cases tick
    · rfl
    · exact countTick_of_zero hc
  · rw [stepFcv_channels_of_cnt hc, poll_of_not_await hst]
    simp [hc]

theorem rxTake_channels_some {f : Fcv} (hst : f.st = .await) (hc : f.cnt ≠ 0#16) (b : Byte) (tick : Bool) :
    rxTake f (channels none (some b) tick) = true := rxTake_iff.2 ⟨rfl, hst, hc, rfl⟩

/-- VALIDATE writes `buf[8]`, `fill` and `st` (R131). -/
theorem validateByte_eq (b : Byte) (f : Fcv) :
    validateByte b f =
      { f with buf := f.buf.set 8 b, fill := 9, st := if b = chk (payload f.buf) then .done else .failedIntegrity } := by
  unfold validateByte
  split <;> simp [*, raiseError]

/-- Settles O23: in AWAIT the poll takes the byte unless the deadline is reached; elsewhere there is no poll. -/
theorem offeredByteByState : Obligations.OfferedByteByState := by
  intro b tick s
  refine ⟨fun hst hc h7 => ?append, fun hst hc h8 => ?validate, fun hst hc => ?timeout, fun hst => ?notTaken,
    fun hst d => ?armed⟩
  case append =>
    have hfill : s.fcv.fill ≤ 8 := h7.trans (by decide)
    refine ⟨rxTake_channels_some hst hc b tick, _, clockCycle_of_fill (fun _ => hfill) _, ?_⟩
    rw [clocked_fcv, stepFcv_channels_of_cnt hc, poll_some hst hc, takeByte_append h7]
    rfl
  case validate =>
    refine ⟨rxTake_channels_some hst hc b tick, _, clockCycle_of_fill (fun _ => h8.le) _, ?_⟩
    rw [clocked_fcv, stepFcv_channels_of_cnt hc, poll_some hst hc, takeByte_validate h8, validateByte_eq]
  case timeout =>
    refine ⟨rxTake_expired hc _, _, clockCycle_of_not_rxTake (rxTake_expired hc _), ?_⟩
    rw [clocked_fcv, stepFcv_channels_expired _ _ hst hc]
    rfl
  case notTaken =>
    exact ⟨rxTake_of_not_await hst _, _, clockCycle_of_not_await hst _,
      by rw [clocked_fcv, stepFcv_channels_of_not_await _ _ hst]⟩
  case armed =>
    obtain ⟨t, ht, htf⟩ := exec_arm_accepted d (some b) tick hst
    obtain ⟨u, hu, huf⟩ := exec_arm_accepted d none tick hst
    exact ⟨rxTake_of_not_await hst _, t, u, ht, hu, htf.trans huf.symm⟩

/-- Settles O21: a poll that finds nothing or the deadline, and then the tick. -/
theorem tickAloneCompletes : Obligations.TickAloneCompletes := by
  refine fun s => ⟨_, clockCycle_no_byte true s, ?_⟩
  rw [clocked_fcv]
  split
  · next hc =>
    split
    · next hst => rw [stepFcv_channels_expired _ _ hst hc]; rfl
    · next hst => rw [stepFcv_channels, poll_of_not_await hst]; exact countTick_of_zero hc
  · next hc => rw [stepFcv_channels_of_cnt hc, poll_none hc]; rfl

/-- Settles O22: NOP drives the ports of RXN, and a poll that finds nothing can only find the deadline. -/
theorem nothingOfferedNothingTaken : Obligations.NothingOfferedNothingTaken := by
  refine ⟨by decide, fun s => ⟨?_, ?_, _, clockCycle_no_byte false s, ?_⟩⟩
  · simp only [exec, execNop, execRxn, unpackIn_zero]
  · rw [unpackIn_zero]; simp [rxTake]
  · rw [clocked_fcv]
    split
    · next h =>
      obtain ⟨hst, hc⟩ := h
      rw [stepFcv_channels_expired _ _ hst hc]
      rfl
    · next hn =>
      rw [stepFcv_channels]
      by_cases hst : s.fcv.st = .await
      · exact poll_none fun hc => hn ⟨hst, hc⟩
      · exact poll_of_not_await hst none

/-! ## What is driven during writes (R125, R126, R162) -/

theorem blockAfter_cons (c : EnvCycle) (cs : List EnvCycle) (f : Fcv) :
    blockAfter (c :: cs) f = blockAfter cs (stepFcv (channels none c.rx c.tick) f) := rfl

/-- Settles O49, by induction on the cycles: each writes `cnt` alone. -/
theorem writesLeaveAnIdleBlockAlone : Obligations.WritesLeaveAnIdleBlockAlone := by
  intro cs
  induction cs with
  | nil => exact fun f _ => ⟨rfl, rfl⟩
  | cons c cs ih =>
    intro f hst
    have hstep := stepFcv_channels_of_not_await c.rx c.tick hst
    have hcnt : (stepFcv (channels none c.rx c.tick) f).cnt.toNat = f.cnt.toNat - if c.tick then 1 else 0 := by
      rw [stepFcv_cnt_toNat]
      cases c.tick <;> simp [nextCnt]
    obtain ⟨hblock, hticks⟩ := ih (stepFcv (channels none c.rx c.tick) f) (by rw [hstep]; exact hst)
    rw [blockAfter_cons]
    refine ⟨?_, ?_⟩
    · rw [hblock, hstep]
    · rw [hticks, hcnt, List.countP_cons]
      omega

end Sys2Proof.Machine
end

section
/-! The internal transitions, and the state-transfer table row by row (spec/42_response_collector.md R129 to R132). -/

namespace Sys2Proof.Machine

open Sys2Proof

/-! ## TIMEOUT, APPEND, VALIDATE (R129 to R131) -/

/-- A transition as an instruction is a word's step when both leave the block the same. -/
theorem clockCycle_eq_edge {p : InPorts} {s : State} {g : Fcv} (hin : offsetMissing p s.fcv = false)
    (hstep : stepFcv p s.fcv = g) : clockCycle p s = .next (edge g s) := by
  rw [clockCycle_of_inside hin, clocked, hstep]

theorem polling_iff {f : Fcv} : polling f = true ↔ f.st = .await ∧ f.cnt ≠ 0#16 := by simp [polling, expired]

theorem exec_timeout_taken {s : State} (hst : s.fcv.st = .await) (hc : s.fcv.cnt = 0#16) :
    exec .timeout s = .next (edge (raiseError .timedOut s.fcv) s) := if_pos ⟨hst, by simp [expired, hc]⟩

theorem exec_append_taken {s : State} (hst : s.fcv.st = .await) (hc : s.fcv.cnt ≠ 0#16) (h7 : s.fcv.fill ≤ 7) (b : Byte) :
    exec (.append b) s = .next (edge (takeByte b s.fcv) s) := by
  rw [takeByte_append h7]
  exact if_pos ⟨polling_iff.2 ⟨hst, hc⟩, h7⟩

theorem exec_validate_taken {s : State} (hst : s.fcv.st = .await) (hc : s.fcv.cnt ≠ 0#16) (h8 : s.fcv.fill = 8) (b : Byte) :
    exec (.validate b) s = .next (edge (takeByte b s.fcv) s) := by
  rw [takeByte_validate h8]
  exact if_pos ⟨polling_iff.2 ⟨hst, hc⟩, h8⟩

/-- The word RXB b in AWAIT, before the deadline: the byte is taken, and then a tick counts. -/
theorem exec_rxb_taken {s : State} (hst : s.fcv.st = .await) (hc : s.fcv.cnt ≠ 0#16) (hfill : s.fcv.fill ≤ 8) (b : Byte)
    (tick : Bool) :
    exec (.rxb b tick) s = .next (edge ((if tick then countTick else id) (takeByte b s.fcv)) s) :=
  clockCycle_eq_edge (offsetMissing_of_fill fun _ => hfill) (by rw [stepFcv_channels, poll_some hst hc])

theorem fill_ne_nine_of_le_eight : ∀ {n : Fin 10}, n ≤ 8 → n ≠ 9 := by decide

/-- Settles O24: every such word raises TIMEOUT, and the word NOP has no other channel that acts. -/
theorem timeoutWinsOverAnyByte : Obligations.TimeoutWinsOverAnyByte := by
  intro w s hw hst hc
  have htransition := exec_timeout_taken hst hc
  have hnop : exec .nop s = .next (edge (raiseError .timedOut s.fcv) s) :=
    clockCycle_eq_edge (by simp [offsetMissing, rxTake_expired hc])
      (by rw [unpackIn_zero, stepFcv_channels_expired none false hst hc])
  obtain ⟨t, ht, htst, hfill, hbuf, hcnt⟩ := exec_word_expired (w := w) hw hst hc
  refine ⟨rxTake_expired hc _, htransition.trans hnop.symm, ⟨_, htransition, by rw [edge_fcv]; rfl⟩,
    t, ht, htst, hfill, hbuf, hcnt, ?_, ?_⟩
  · simp [busy, htst]
  · simp [errOut, htst, stError, errorCode]

/-- Settles O25. -/
theorem appendStoresAtFill : Obligations.AppendStoresAtFill := by
  intro b s hst hc h7
  have h8 : s.fcv.fill ≤ 8 := h7.trans (by decide)
  have h9 := fill_ne_nine_of_le_eight h8
  refine ⟨_, exec_append_taken hst hc h7 b, exec_rxb_taken hst hc h8 b false, rxTake_channels_some hst hc b false, ?_⟩
  rw [edge_fcv]
  refine ⟨fun i hi => ?_, fun i hi => ?_, takeByte_fill_val h9 b, ?_, ?_, takeByte_cnt b _, takeByte_faultBusy b _⟩
  · rw [takeByte_buf_getElem h9, if_pos hi]
  · rw [takeByte_buf_getElem h9, if_neg hi]
  · rw [takeByte_append h7, appendByte_fill]
    exact fill_succ_le_eight h7
  · rw [takeByte_append h7, appendByte_st, hst]

/-- Settles O26: the state is decided by the comparison, and a tick touches `cnt` alone. -/
theorem validateJudgesTheNinthByte : Obligations.ValidateJudgesTheNinthByte := by
  intro b s hst hc h8
  have h9 := fill_ne_nine_of_le_eight h8.le
  have hstate : (takeByte b s.fcv).st = if b = chk (payload s.fcv.buf) then .done else .failedIntegrity := by
    rw [takeByte_validate h8, validateByte_st]
  refine ⟨_, exec_validate_taken hst hc h8 b, exec_rxb_taken hst hc h8.le b false, rxTake_channels_some hst hc b false, ?_⟩
  rw [edge_fcv]
  refine ⟨?_, fun i hi => ?_, ?_, takeByte_cnt b _, takeByte_faultBusy b _, fun hb => ?_, fun hb => ?_,
    _, exec_rxb_taken hst hc h8.le b true, ?_⟩
  · rw [takeByte_validate h8, validateByte_buf, Vector.getElem_set_self]
  · rw [takeByte_buf_getElem h9, if_neg (by rw [h8]; exact hi)]
  · rw [takeByte_validate h8, validateByte_fill]
  · rw [if_pos hb] at hstate
    simp [hstate, frameValid, errOut, stError]
  · rw [if_neg hb] at hstate
    simp [hstate, frameValid, errOut, stError, errorCode]
  · rw [edge_fcv]
    exact countTick_st _

/-- Settles O27. -/
theorem transitionNotTakenChangesNothing : Obligations.TransitionNotTakenChangesNothing := by
  intro b s
  refine ⟨fun h => ?_, fun h => ?_, fun h => ?_⟩
  · exact if_neg fun hcond => h (by simpa [expired] using hcond)
  · exact if_neg fun hcond => h (by simpa [polling_iff, and_assoc] using hcond)
  · exact if_neg fun hcond => h (by simpa [polling_iff, and_assoc] using hcond)

/-! ## The state-transfer table (R132) -/

/-- The rows of the table: a step takes exactly one of them. -/
theorem stepFcv_rows (p : InPorts) (f : Fcv) :
    (p.rst = true ∧ stepFcv p f = resetFcv f) ∨
    (p.rst = false ∧ f.st ≠ .await ∧ p.arm = true ∧ stepFcv p f = armAccept p.dur f) ∨
    (p.rst = false ∧ f.st ≠ .await ∧ p.arm = false ∧ stepFcv p f = afterPoll p f) ∨
    (p.rst = false ∧ f.st = .await ∧ f.cnt = 0#16 ∧ stepFcv p f = afterPoll p (raiseError .timedOut f)) ∨
    (p.rst = false ∧ f.st = .await ∧ f.cnt ≠ 0#16 ∧ p.rxv = true ∧ stepFcv p f = afterPoll p (takeByte p.rxd f)) ∨
    (p.rst = false ∧ f.st = .await ∧ f.cnt ≠ 0#16 ∧ p.rxv = false ∧ stepFcv p f = afterPoll p f) := by
  obtain hreset | ⟨hr, ha, hst, h⟩ | ⟨hr, ha, h⟩ := stepFcv_cases p f
  · exact .inl hreset
  · exact .inr (.inl ⟨hr, hst, ha, h⟩)
  · by_cases hst : f.st = .await
    · by_cases hc : f.cnt = 0#16
      · rw [poll_expired hst hc] at h
        exact .inr (.inr (.inr (.inl ⟨hr, hst, hc, h⟩)))
      · cases hv : p.rxv with
        | true => exact .inr (.inr (.inr (.inr (.inl
            ⟨hr, hst, hc, rfl, stepFcv_of_rxTake (rxTake_iff.2 ⟨hr, hst, hc, hv⟩)⟩))))
        | false =>
          have hrx : rxOf p = none := by simp [rxOf, hv]
          rw [hrx, poll_none hc] at h
          exact .inr (.inr (.inr (.inr (.inr ⟨hr, hst, hc, rfl, h⟩))))
    · rw [poll_of_not_await hst] at h
      exact .inr (.inr (.inl ⟨hr, hst, ha.resolve_right hst, h⟩))

/-- A byte taken in AWAIT ends the collection exactly when it is the ninth. -/
theorem takeByte_st {f : Fcv} (hst : f.st = .await) (h8 : f.fill ≤ 8) (b : Byte) :
    (takeByte b f).st =
      if f.fill = 8 then if b = chk (payload f.buf) then .done else .failedIntegrity else .await := by
  obtain h7 | h8 := fill_le_eight_cases (fill_ne_nine_of_le_eight h8)
  · have hne : f.fill ≠ 8 := fun h => by rw [h] at h7; exact absurd h7 (by decide)
    rw [takeByte_append h7, appendByte_st, hst, if_neg hne]
  · rw [takeByte_validate h8, validateByte_st, if_pos h8]

/-- The column of `st`. -/
theorem stepFcv_st (p : InPorts) {f : Fcv} (hf : f.st = .await → f.fill ≤ 8) : (stepFcv p f).st = nextSt p f := by
  obtain ⟨hr, h⟩ | ⟨hr, hst, ha, h⟩ | ⟨hr, hst, ha, h⟩ | ⟨hr, hst, hc, h⟩ | ⟨hr, hst, hc, hv, h⟩ | ⟨hr, hst, hc, hv, h⟩ :=
    stepFcv_rows p f
  · simp [h, nextSt, hr]
  · simp [h, nextSt, hr, hst, ha]
  · simp [h, nextSt, hr, hst, ha]
  · simp [h, nextSt, hr, hst, hc]
  · simp [h, nextSt, hr, hst, hc, hv, takeByte_st hst (hf hst)]
  · simp [h, nextSt, hr, hst, hc, hv]

/-- The column of `fill`. -/
theorem stepFcv_fill (p : InPorts) {f : Fcv} (hf : f.st = .await → f.fill ≤ 8) :
    (stepFcv p f).fill.val = nextFill p f := by
  obtain ⟨hr, h⟩ | ⟨hr, hst, ha, h⟩ | ⟨hr, hst, ha, h⟩ | ⟨hr, hst, hc, h⟩ | ⟨hr, hst, hc, hv, h⟩ | ⟨hr, hst, hc, hv, h⟩ :=
    stepFcv_rows p f
  · simp [h, nextFill, hr]
  · simp [h, nextFill, hr, hst, ha]
  · simp [h, nextFill, hr, hst, ha]
  · simp [h, nextFill, hr, hst, hc]
  · simp [h, nextFill, hr, hst, hc, hv, takeByte_fill_val (fill_ne_nine_of_le_eight (hf hst))]
  · simp [h, nextFill, hr, hst, hc, hv]

/-- The columns of `buf`. -/
theorem stepFcv_buf (p : InPorts) {f : Fcv} (hf : f.st = .await → f.fill ≤ 8) (i : Fin 9) :
    (stepFcv p f).buf[i.val] = nextBuf p f i := by
  obtain ⟨hr, h⟩ | ⟨hr, hst, ha, h⟩ | ⟨hr, hst, ha, h⟩ | ⟨hr, hst, hc, h⟩ | ⟨hr, hst, hc, hv, h⟩ | ⟨hr, hst, hc, hv, h⟩ :=
    stepFcv_rows p f
  · simp [h, nextBuf, hr]
  · simp [h, nextBuf, takes, hst]
  · simp [h, nextBuf, takes, hst]
  · simp [h, nextBuf, takes, hc]
  · have hbyte := takeByte_buf_getElem (fill_ne_nine_of_le_eight (hf hst)) p.rxd i
    simp [h, nextBuf, takes, hr, hst, hc, hv, hbyte, eq_comm (a := f.fill.val)]
  · simp [h, nextBuf, takes, hv]

/-- Settles O28, column by column. -/
theorem everyWordFollowsTheTransferTable : Obligations.EveryWordFollowsTheTransferTable := by
  intro w s hf
  refine ⟨_, (exec_decodeIn w s).trans (clockCycle_of_fill hf _), ?_⟩
  rw [clocked_fcv]
  exact ⟨stepFcv_st _ hf, stepFcv_fill _ hf, stepFcv_cnt_toNat _ _, stepFcv_buf _ hf, stepFcv_faultBusy _ _⟩

end Sys2Proof.Machine
end

section
/-! A collection against the document's polling loop: one word of the other agents is one iteration of the loop
(spec/42_response_collector.md R120, R133 to R135, R138). -/

namespace Sys2Proof.Machine

open Sys2Proof

/-! ## The result a block shows (R11) -/

theorem resultOf_congr {f g : Fcv} (hst : g.st = f.st) (hbuf : g.buf = f.buf) : resultOf g = resultOf f := by
  simp only [resultOf, observe, frameOut, hst, hbuf]

theorem resultOf_of_await {f : Fcv} (h : f.st = .await) : resultOf f = none := by simp [resultOf, observe, h]

theorem resultOf_of_done {f : Fcv} (h : f.st = .done) : resultOf f = some (.frame f.buf.toList) := by
  simp [resultOf, observe, frameOut, h]

theorem resultOf_of_failedTimedOut {f : Fcv} (h : f.st = .failedTimedOut) : resultOf f = some .timedOut := by
  simp [resultOf, observe, h]

theorem resultOf_of_failedIntegrity {f : Fcv} (h : f.st = .failedIntegrity) : resultOf f = some .integrityFailure := by
  simp [resultOf, observe, h]

theorem ne_await_of_resultOf {f : Fcv} {r : CollectResult} (h : resultOf f = some r) : f.st ≠ .await := fun hst => by
  simp [resultOf_of_await hst] at h

@[simp] theorem resultOf_afterPoll (p : InPorts) (f : Fcv) : resultOf (afterPoll p f) = resultOf f :=
  resultOf_congr (afterPoll_st p f) (afterPoll_buf p f)

/-! ## The document's loop, an iteration at a time -/

/-- The loop goes on after an iteration exactly when that iteration alone returns nothing. -/
theorem documentCollect_cons (left : Nat) (got : List Byte) (x : Option Byte × Bool) (rest : List (Option Byte × Bool)) :
    documentCollect left got (x :: rest) =
      (documentCollect left got [x]).or
        (documentCollect (if x.2 then left - 1 else left) (got ++ x.1.toList) rest) := by
  obtain ⟨rx, tick⟩ := x
  cases left with
  | zero => rfl
  | succ left =>
    cases rx with
    | none => simp [documentCollect]
    | some b =>
      by_cases h8 : got.length = 8
      · by_cases hwf : wf (got ++ [b]) = true <;> simp [documentCollect, h8, hwf]
      · simp [documentCollect, h8]

/-! ## A collection in progress (R135) -/

/-- The collection is in progress and has taken the bytes `got`, in this order. -/
structure Collects (f : Fcv) (got : List Byte) : Prop where
  busy : f.st = .await
  count : f.fill.val = got.length
  inside : f.fill ≤ 8
  stored : f.buf.toList.take f.fill.val = got

theorem collects_armAccept (d : BitVec 16) (f : Fcv) : Collects (armAccept d f) [] := ⟨rfl, rfl, by simp, rfl⟩

theorem payload_toList_eq_take (F : Frame) : (payload F).toList = F.toList.take 8 := by
  obtain ⟨l, c, rfl⟩ : ∃ (l : Payload) (c : Byte), F = l.push c := ⟨F.pop, F.back, F.push_pop_back.symm⟩
  have hl : payload (l.push c) = l := by simp [payload, payload_eta]
  rw [hl, Vector.toList_push, List.take_left' l.length_toList]

section

variable {f g : Fcv} {got : List Byte}

theorem Collects.congr (h : Collects f got) (hst : g.st = f.st) (hfill : g.fill = f.fill) (hbuf : g.buf = f.buf) :
    Collects g got where
  busy := hst.trans h.busy
  count := by rw [hfill]; exact h.count
  inside := by rw [hfill]; exact h.inside
  stored := by rw [hfill, hbuf]; exact h.stored

theorem Collects.afterPoll (h : Collects f got) (p : InPorts) : Collects (afterPoll p f) got :=
  h.congr (afterPoll_st ..) (afterPoll_fill ..) (afterPoll_buf ..)

/-- The next byte goes to the end of what is stored, the ninth as well. -/
theorem Collects.stored_takeByte (h : Collects f got) (b : Byte) :
    (takeByte b f).buf.toList.take (f.fill.val + 1) = got ++ [b] := by
  have hlt : f.fill.val < 9 := Nat.lt_succ_of_le h.inside
  have hbuf : (takeByte b f).buf = f.buf.set f.fill.val b := by
    apply Vector.ext
    intro i hi
    rw [Vector.getElem_set]
    simpa only [eq_comm] using takeByte_buf_getElem (fill_ne_nine_of_le_eight h.inside) b ⟨i, hi⟩
  rw [hbuf, Vector.toList_set, List.take_add_one, List.take_set_of_le le_rfl, h.stored]
  simp [hlt]

/-- APPEND goes on with one byte more (R130). -/
theorem Collects.append (h : Collects f got) (hlen : got.length ≠ 8) (b : Byte) : Collects (takeByte b f) (got ++ [b]) := by
  have hfill : (takeByte b f).fill.val = f.fill.val + 1 := takeByte_fill_val (fill_ne_nine_of_le_eight h.inside) b
  have h8 : f.fill ≠ 8 := fun h8 => hlen (by rw [← h.count, h8]; rfl)
  have hinside : f.fill.val ≤ 8 := h.inside
  have hne : f.fill.val ≠ 8 := fun hv => h8 (Fin.ext hv)
  refine ⟨by rw [takeByte_st h.busy h.inside, if_neg h8], ?_, ?_, ?_⟩
  · rw [hfill, h.count, List.length_append, List.length_singleton]
  · exact Fin.le_def.2 (by rw [hfill]; exact Nat.lt_of_le_of_ne hinside hne)
  · rw [hfill]
    exact h.stored_takeByte b

/-- VALIDATE shows what the document returns at nine bytes (R131): its comparison is `wf` of the nine. -/
theorem Collects.validate (h : Collects f got) (hlen : got.length = 8) (b : Byte) :
    resultOf (takeByte b f) = if wf (got ++ [b]) then some (.frame (got ++ [b])) else some .integrityFailure := by
  have h8 : f.fill = 8 := Fin.ext (h.count.trans hlen)
  have hgot : got = (payload f.buf).toList := by
    rw [payload_toList_eq_take, ← h.stored, h8]
    rfl
  have hbytes : (takeByte b f).buf.toList = got ++ [b] := by
    rw [← h.stored_takeByte b, h8, List.take_of_length_le]
    simp
  have hst := takeByte_st h.busy h.inside b
  rw [if_pos h8] at hst
  have hwf : wf (got ++ [b]) = true ↔ b = chk (payload f.buf) := by
    rw [hgot]
    exact wf_append_iff _ b
  by_cases hb : b = chk (payload f.buf)
  · rw [if_pos hb] at hst
    rw [if_pos (hwf.2 hb), resultOf_of_done hst, hbytes]
  · rw [if_neg hb] at hst
    rw [if_neg (mt hwf.1 hb), resultOf_of_failedIntegrity hst]

/-- One word of the other agents is one iteration of the document's loop: the block shows what the iteration returns, and where it
returns nothing the block has taken the byte offered. -/
theorem Collects.one_word {p : InPorts} (h : Collects f got) (hr : p.rst = false) (ha : p.arm = false) :
    resultOf (stepFcv p f) = documentCollect f.cnt.toNat got [(rxOf p, p.tick)] ∧
      (documentCollect f.cnt.toNat got [(rxOf p, p.tick)] = none → Collects (stepFcv p f) (got ++ (rxOf p).toList)) := by
  have hstep : stepFcv p f = Machine.afterPoll p (poll (rxOf p) f) := stepFcv_poll hr (.inl ha)
  rw [hstep, resultOf_afterPoll]
  by_cases hc : f.cnt = 0#16
  · rw [poll_expired h.busy hc, resultOf_of_failedTimedOut (raiseTimedOut_st f), hc]
    exact ⟨rfl, nofun⟩
  · obtain ⟨left, hleft⟩ : ∃ left, f.cnt.toNat = left + 1 :=
      Nat.exists_eq_succ_of_ne_zero fun h0 => hc (BitVec.eq_of_toNat_eq h0)
    rw [hleft]
    cases rxOf p with
    | none =>
      rw [poll_none hc, resultOf_of_await h.busy]
      exact ⟨by simp [documentCollect], fun _ => by simpa using h.afterPoll p⟩
    | some b =>
      rw [poll_some h.busy hc]
      by_cases hlen : got.length = 8
      · rw [h.validate hlen b]
        refine ⟨by simp [documentCollect, hlen], fun hnone => ?_⟩
        by_cases hwf : wf (got ++ [b]) = true <;> simp [documentCollect, hlen, hwf] at hnone
      · have hnext := h.append hlen b
        rw [resultOf_of_await hnext.busy]
        exact ⟨by simp [documentCollect, hlen], fun _ => hnext.afterPoll p⟩

end

/-! ## Runs over the words of the other agents -/

theorem exec_armWord_accepted (d : BitVec 16) {s : State} (h : s.fcv.st ≠ .await) :
    ∃ t, exec (decodeIn (assembleWord false (some d) none false)) s = .next t ∧ t.fcv = armAccept d s.fcv := by
  rw [decodeIn_assembleWord]
  exact exec_arm_accepted d none false h

/-- Once a collection has ended the words of the other agents change nothing of what it shows (R134). -/
theorem runWords_of_not_await (ws : List (BitVec 28)) (s : State) (henv : ∀ w ∈ ws, envWord w = true)
    (hst : s.fcv.st ≠ .await) : ∃ t, runWords ws s = .next t ∧ resultOf t.fcv = resultOf s.fcv := by
  induction ws generalizing s with
  | nil => exact ⟨s, rfl, rfl⟩
  | cons w ws ih =>
    obtain ⟨hw, hws⟩ := List.forall_mem_cons.1 henv
    obtain ⟨hr, ha⟩ := envWord_iff.1 hw
    have hfcv : (clocked (unpackIn w) s).fcv = afterPoll (unpackIn w) s.fcv := by
      rw [clocked_fcv, stepFcv_of_not_await hr ha hst]
    obtain ⟨t, ht, hresult⟩ := ih (clocked (unpackIn w) s) hws (by rwa [hfcv, afterPoll_st])
    refine ⟨t, ?_, by rw [hresult, hfcv, resultOf_afterPoll]⟩
    rw [runWords_cons, clockCycle_of_not_await hst, andThen_next, ht]

/-- The bytes a sequence of words offers, word by word. -/
theorem offered_cons (w : BitVec 28) (ws : List (BitVec 28)) :
    (w :: ws).filterMap (fun w => rxOf (unpackIn w)) =
      (rxOf (unpackIn w)).toList ++ ws.filterMap fun w => rxOf (unpackIn w) := by
  cases hrx : rxOf (unpackIn w) <;> simp [hrx]

/-- A collection in progress, over any words of the other agents: it shows what the document's loop returns, and while the loop
polls it has taken every byte offered. -/
theorem runWords_collects {got : List Byte} (ws : List (BitVec 28)) (s : State) (henv : ∀ w ∈ ws, envWord w = true)
    (h : Collects s.fcv got) :
    ∃ t, runWords ws s = .next t ∧ resultOf t.fcv = documentCollect s.fcv.cnt.toNat got (ws.map pollView) ∧
      (documentCollect s.fcv.cnt.toNat got (ws.map pollView) = none →
        Collects t.fcv (got ++ ws.filterMap fun w => rxOf (unpackIn w))) := by
  induction ws generalizing s got with
  | nil => exact ⟨s, rfl, by simp [resultOf_of_await h.busy, documentCollect], fun _ => by simpa using h⟩
  | cons w ws ih =>
    obtain ⟨hw, hws⟩ := List.forall_mem_cons.1 henv
    obtain ⟨hr, ha⟩ := envWord_iff.1 hw
    obtain ⟨hshown, hgoes⟩ := h.one_word hr ha
    rw [← clocked_fcv] at hshown hgoes
    rw [runWords_cons, clockCycle_of_fill fun _ => h.inside, andThen_next, List.map_cons, documentCollect_cons]
    cases hone : documentCollect s.fcv.cnt.toNat got [pollView w] with
    | some r =>
      have hended : resultOf (clocked (unpackIn w) s).fcv = some r := hshown.trans hone
      obtain ⟨t, ht, hresult⟩ := runWords_of_not_await ws _ hws (ne_await_of_resultOf hended)
      exact ⟨t, ht, hresult.trans hended, nofun⟩
    | none =>
      have hcnt : (clocked (unpackIn w) s).fcv.cnt.toNat =
          if (pollView w).2 then s.fcv.cnt.toNat - 1 else s.fcv.cnt.toNat := by
        rw [clocked_fcv, stepFcv_cnt_toNat]
        cases ht : (unpackIn w).tick <;> simp [nextCnt, hr, ha, pollView, ht]
      obtain ⟨t, ht, hresult, hcollects⟩ := ih _ hws (hgoes hone)
      rw [hcnt] at hresult hcollects
      refine ⟨t, ht, hresult, fun hnone => ?_⟩
      rw [offered_cons, ← List.append_assoc]
      exact hcollects hnone

/-- A collection from its ARM on, from any state that is not AWAIT. -/
theorem runWords_armed (d : BitVec 16) (ws : List (BitVec 28)) (s : State) (hst : s.fcv.st ≠ .await)
    (henv : ∀ w ∈ ws, envWord w = true) :
    ∃ t, runWords (assembleWord false (some d) none false :: ws) s = .next t ∧
      resultOf t.fcv = documentCollect d.toNat [] (ws.map pollView) ∧
      (documentCollect d.toNat [] (ws.map pollView) = none →
        Collects t.fcv (ws.filterMap fun w => rxOf (unpackIn w))) := by
  obtain ⟨u, hu, hfcv⟩ := exec_armWord_accepted d hst
  have hcnt : u.fcv.cnt = d := by rw [hfcv, armAccept_cnt]
  obtain ⟨t, ht, hrest⟩ := runWords_collects ws u henv (by rw [hfcv]; exact collects_armAccept d _)
  rw [hcnt] at hrest
  exact ⟨t, by simp only [runWords, hu, ht], hrest⟩

/-- Settles O45: one word of the other agents is one iteration of the document's loop. -/
theorem collectionRefinesTheDocument : Obligations.CollectionRefinesTheDocument := by
  intro d ws s _ hst henv
  obtain ⟨t, ht, hresult, -⟩ := runWords_armed d ws s hst henv
  exact ⟨t, ht, hresult⟩

/-- Settles O46: in AWAIT the document's loop is still polling, and the block holds the bytes it has accumulated. -/
theorem bytesAreStoredInOrder : Obligations.BytesAreStoredInOrder := by
  intro d ws s t _ hst henv hrun hbusy
  obtain ⟨t', ht, hresult, hcollects⟩ := runWords_armed d ws s hst henv
  obtain rfl : t' = t := Host.Outcome.next.inj (ht.symm.trans hrun)
  rw [resultOf_of_await hbusy] at hresult
  have h := hcollects hresult.symm
  exact ⟨h.stored, h.count.symm⟩

end Sys2Proof.Machine
end

section
/-! Runs that may be relied on: a collection ends after its ticks, and two collections over the same words show the same
(spec/42_response_collector.md R136, R137, spec/60_exceptions.md R200). -/

namespace Sys2Proof.Machine

open Sys2Proof

/-! ## One word of a run that may be relied on -/

/-- From an unfaulted state a cycle faults the run exactly by breaking the host's duty. -/
theorem faulted_clocked {s : State} (hs : faulted s = false) (p : InPorts) :
    faulted (clocked p s) = !dutyKept p s.fcv := by
  have hfb : s.fcv.faultBusy = false := hs
  rw [faulted, clocked_fcv, stepFcv_faultBusy]
  cases hr : p.rst <;> simp [nextFaultBusy, dutyKept, hr, hfb, bne]

theorem faulted_of_armAccept {d : BitVec 16} {s t : State} (h : t.fcv = armAccept d s.fcv) : faulted t = faulted s := by
  rw [faulted, h, armAccept_faultBusy, faulted]

theorem arm_of_duty_broken {p : InPorts} {f : Fcv} (h : dutyKept p f = false) : p.arm = true := by
  simp only [dutyKept, Bool.or_eq_false_iff, Bool.not_eq_false'] at h
  exact h.1.2

section

variable {w : BitVec 28} {ws : List (BitVec 28)} {s : State}

theorem reliedWords_cons (hf : s.fcv.st = .await → s.fcv.fill ≤ 8) (hs : faulted s = false) :
    reliedWords (w :: ws) s =
      if dutyKept (unpackIn w) s.fcv then reliedWords ws (clocked (unpackIn w) s) else .fault .hostDutyBroken := by
  have hnext : exec (decodeIn w) s = .next (clocked (unpackIn w) s) := by rw [exec_decodeIn, clockCycle_of_fill hf]
  simp only [reliedWords, hnext, faulted_clocked hs]
  cases dutyKept (unpackIn w) s.fcv <;> rfl

theorem reliedWords_cons_of_dutyKept (hf : s.fcv.st = .await → s.fcv.fill ≤ 8) (hs : faulted s = false)
    (hd : dutyKept (unpackIn w) s.fcv = true) : reliedWords (w :: ws) s = reliedWords ws (clocked (unpackIn w) s) := by
  rw [reliedWords_cons hf hs, if_pos hd]

theorem reliedWords_cons_of_duty_broken (hf : s.fcv.st = .await → s.fcv.fill ≤ 8) (hs : faulted s = false)
    (hd : dutyKept (unpackIn w) s.fcv = false) : reliedWords (w :: ws) s = .fault .hostDutyBroken := by
  rw [reliedWords_cons hf hs, hd]
  rfl

theorem faulted_clocked_of_dutyKept (hs : faulted s = false) (hd : dutyKept (unpackIn w) s.fcv = true) :
    faulted (clocked (unpackIn w) s) = false := by rw [faulted_clocked hs, hd]; rfl

end

/-! ## A collection ends after its ticks (R136) -/

/-- Within the words `vs` a run that may be relied on leaves AWAIT, or faults there on an ARM. -/
def LeavesAwaitWithin (vs : List (BitVec 28)) (t : State) : Prop :=
  ∃ k ≤ vs.length,
    (∃ u : State, reliedWords (vs.take k) t = .next u ∧ u.fcv.st ≠ .await) ∨
    ((∃ v ∈ vs, (unpackIn v).arm = true) ∧ reliedWords (vs.take k) t = .fault .hostDutyBroken)

theorem leavesAwaitWithin_of_not_await (vs : List (BitVec 28)) {t : State} (h : t.fcv.st ≠ .await) :
    LeavesAwaitWithin vs t := ⟨0, Nat.zero_le _, .inl ⟨t, rfl, h⟩⟩

/-- A word that breaks the duty is the fault; after any other word the rest has to do it. -/
theorem leavesAwaitWithin_cons {v : BitVec 28} {vs : List (BitVec 28)} {t : State} (hf : t.fcv.st = .await → t.fcv.fill ≤ 8)
    (ht : faulted t = false)
    (hrest : dutyKept (unpackIn v) t.fcv = true → LeavesAwaitWithin vs (clocked (unpackIn v) t)) :
    LeavesAwaitWithin (v :: vs) t := by
  cases hd : dutyKept (unpackIn v) t.fcv with
  | false =>
    refine ⟨1, by simp, .inr ⟨⟨v, List.mem_cons_self, arm_of_duty_broken hd⟩, ?_⟩⟩
    exact reliedWords_cons_of_duty_broken hf ht hd
  | true =>
    have hword : ∀ k, reliedWords ((v :: vs).take (k + 1)) t = reliedWords (vs.take k) (clocked (unpackIn v) t) :=
      fun _ => reliedWords_cons_of_dutyKept hf ht hd
    obtain ⟨k, hk, hend⟩ := hrest hd
    refine ⟨k + 1, Nat.succ_le_succ hk, ?_⟩
    rw [hword]
    obtain hend | ⟨⟨v', hv', harm⟩, hfault⟩ := hend
    · exact .inl hend
    · exact .inr ⟨⟨v', List.mem_cons_of_mem v hv', harm⟩, hfault⟩

/-- In AWAIT a word takes its tick from the deadline, whatever else it holds. -/
theorem stepFcv_cnt_le_tickCount {w : BitVec 28} {ws : List (BitVec 28)} {f : Fcv} (hst : f.st = .await)
    (h : f.cnt.toNat ≤ tickCount (w :: ws)) : (stepFcv (unpackIn w) f).cnt.toNat ≤ tickCount ws := by
  rw [tickCount_cons] at h
  rw [stepFcv_cnt_toNat]
  cases hr : (unpackIn w).rst <;> cases ht : (unpackIn w).tick <;> simp [nextCnt, hst, hr, ht] at h ⊢ <;> omega

/-- With the deadline reached no word leaves the block in AWAIT: it is a reset or a TIMEOUT (R129). -/
theorem stepFcv_ne_await_of_expired (p : InPorts) {f : Fcv} (hst : f.st = .await) (hc : f.cnt = 0#16) (h8 : f.fill ≤ 8) :
    (stepFcv p f).st ≠ .await := by
  rw [stepFcv_st p fun _ => h8]
  cases hr : p.rst <;> simp [nextSt, hr, hst, hc]

/-- As many ticks as the deadline has left, and one word more. -/
theorem leavesAwaitWithin_ticks (ws : List (BitVec 28)) (w : BitVec 28) (t : State)
    (hf : t.fcv.st = .await → t.fcv.fill ≤ 8) (ht : faulted t = false) (hticks : t.fcv.cnt.toNat ≤ tickCount ws) :
    LeavesAwaitWithin (ws ++ [w]) t := by
  by_cases hst : t.fcv.st = .await
  · induction ws generalizing t with
    | nil =>
      have hc : t.fcv.cnt = 0#16 := BitVec.eq_of_toNat_eq (Nat.le_zero.1 hticks)
      refine leavesAwaitWithin_cons hf ht fun _ => leavesAwaitWithin_of_not_await [] ?_
      rw [clocked_fcv]
      exact stepFcv_ne_await_of_expired _ hst hc (hf hst)
    | cons v ws ih =>
      refine leavesAwaitWithin_cons hf ht fun hd => ?_
      by_cases hnext : (clocked (unpackIn v) t).fcv.st = .await
      · refine ih _ ?_ (faulted_clocked_of_dutyKept ht hd) ?_ hnext
        · rw [clocked_fcv]; exact stepFcv_await_fill _ _ hf
        · rw [clocked_fcv]; exact stepFcv_cnt_le_tickCount hst hticks
      · exact leavesAwaitWithin_of_not_await _ hnext
  · exact leavesAwaitWithin_of_not_await _ hst

/-- Settles O47: an accepted ARM leaves `d` ticks to count. -/
theorem collectionEndsAfterItsTicks : Obligations.CollectionEndsAfterItsTicks := by
  refine ⟨fun d ws w s t hs hst h hticks => ?_, fun w s t _ hst h henv => ?_⟩
  · have hfcv := fcv_of_arm_accepted hst h
    have hleaves : LeavesAwaitWithin (ws ++ [w]) t := by
      refine leavesAwaitWithin_ticks ws w t (fun _ => ?_) ((faulted_of_armAccept hfcv).trans hs) ?_
      · simp [hfcv]
      · rwa [hfcv, armAccept_cnt]
    simpa [LeavesAwaitWithin] using hleaves
  · have hfcv := fcv_of_arm_accepted hst h
    obtain ⟨hr, -⟩ := envWord_iff.1 henv
    obtain ⟨u, hu, htimedOut, -⟩ := exec_word_expired (w := w) (s := t) hr (by rw [hfcv]; rfl) (by rw [hfcv]; rfl)
    exact ⟨u, hu, htimedOut⟩

/-! ## Collections are independent (R137) -/

/-- Two blocks that differ in bytes of the buffer that no collection will read: those at `fill` and above. -/
structure Alike (f g : Fcv) : Prop where
  st : g.st = f.st
  fill : g.fill = f.fill
  cnt : g.cnt = f.cnt
  faultBusy : g.faultBusy = f.faultBusy
  buf : ∀ i : Fin 9, i.val < f.fill.val → g.buf[i.val] = f.buf[i.val]

theorem alike_armAccept (d : BitVec 16) {f g : Fcv} (h : g.faultBusy = f.faultBusy) :
    Alike (armAccept d f) (armAccept d g) := ⟨rfl, rfl, rfl, h, fun _ hi => absurd hi (Nat.not_lt_zero _)⟩

section

variable {f g : Fcv}

/-- With eight bytes stored the checksums are the same. -/
theorem Alike.payload_eq (h : Alike f g) (h8 : f.fill = 8) : payload g.buf = payload f.buf := by
  apply Vector.ext
  intro i hi
  have hbyte : g.buf[i] = f.buf[i] := h.buf ⟨i, by omega⟩ (by rw [h8]; exact hi)
  exact (payload_getElem g.buf ⟨i, hi⟩).trans (hbyte.trans (payload_getElem f.buf ⟨i, hi⟩).symm)

theorem Alike.nextSt_eq (h : Alike f g) (p : InPorts) : nextSt p g = nextSt p f := by
  unfold nextSt
  rw [h.st, h.cnt, h.fill]
  by_cases h8 : f.fill = 8
  · rw [h.payload_eq h8]
  · simp [h8]

theorem Alike.nextFill_eq (h : Alike f g) (p : InPorts) : nextFill p g = nextFill p f := by
  unfold nextFill
  rw [h.st, h.cnt, h.fill]

theorem Alike.nextCnt_eq (h : Alike f g) (p : InPorts) : nextCnt p g = nextCnt p f := by
  unfold nextCnt
  rw [h.st, h.cnt]

theorem Alike.nextFaultBusy_eq (h : Alike f g) (p : InPorts) : nextFaultBusy p g = nextFaultBusy p f := by
  unfold nextFaultBusy
  rw [h.st, h.faultBusy]

/-- A step that does not take a byte does not advance `fill`. -/
theorem nextFill_le_of_not_takes {p : InPorts} (h : takes p f = false) : nextFill p f ≤ f.fill.val := by
  unfold nextFill
  by_cases hst : f.st = .await
  · by_cases hc : f.cnt = 0#16
    · simp [hst, hc]
    · have hv : p.rxv = false := by simpa [takes, hst, hc] using h
      cases p.rst <;> simp [hst, hc, hv]
  · cases p.rst <;> cases p.arm <;> simp [hst]

theorem nextFill_of_takes {p : InPorts} (hr : p.rst = false) (h : takes p f = true) : nextFill p f = f.fill.val + 1 := by
  simp only [takes, Bool.and_eq_true, beq_iff_eq, bne_iff_ne] at h
  obtain ⟨⟨hst, hc⟩, hv⟩ := h
  simp [nextFill, hr, hst, hc, hv]

/-- Below the new `fill` a byte is the one just taken, or was below the old `fill` already. -/
theorem Alike.nextBuf_eq (h : Alike f g) (p : InPorts) (i : Fin 9) (hi : i.val < nextFill p f) :
    nextBuf p g i = nextBuf p f i := by
  have htakes : takes p g = takes p f := by rw [takes, takes, h.st, h.cnt]
  unfold nextBuf
  rw [htakes, h.fill]
  cases hr : p.rst with
  | true => simp [nextFill, hr] at hi
  | false =>
    cases ht : takes p f with
    | false => simpa using h.buf i (hi.trans_le (nextFill_le_of_not_takes ht))
    | true =>
      rw [nextFill_of_takes hr ht] at hi
      by_cases hfill : f.fill.val = i.val
      · simp [hfill]
      · simpa [hfill] using h.buf i (by omega)

/-- A step keeps two blocks alike: by the columns of the transfer table. -/
theorem Alike.step (h : Alike f g) (hf : f.st = .await → f.fill ≤ 8) (p : InPorts) :
    Alike (stepFcv p f) (stepFcv p g) := by
  have hg : g.st = .await → g.fill ≤ 8 := by rwa [h.st, h.fill]
  refine ⟨?_, Fin.ext ?_, BitVec.eq_of_toNat_eq ?_, ?_, fun i hi => ?_⟩
  · rw [stepFcv_st p hf, stepFcv_st p hg, h.nextSt_eq]
  · rw [stepFcv_fill p hf, stepFcv_fill p hg, h.nextFill_eq]
  · rw [stepFcv_cnt_toNat, stepFcv_cnt_toNat, h.nextCnt_eq]
  · rw [stepFcv_faultBusy, stepFcv_faultBusy, h.nextFaultBusy_eq]
  · rw [stepFcv_fill p hf] at hi
    rw [stepFcv_buf p hf, stepFcv_buf p hg, h.nextBuf_eq p i hi]

/-- The outputs show the buffer in DONE alone, where all nine bytes are of the collection. -/
theorem Alike.out_eq (h : Alike f g) (hdone : f.st = .done → f.fill = 9) (p : InPorts) : out f p = out g p := by
  have hframe : frameOut g = frameOut f := by
    by_cases hst : f.st = .done
    · have hbuf : g.buf = f.buf := Vector.ext fun i hi => h.buf ⟨i, hi⟩ (by rw [hdone hst]; exact hi)
      rw [frameOut_of_done hst, frameOut_of_done (h.st.trans hst), hbuf]
    · rw [frameOut_of_not_done hst, frameOut_of_not_done (by rwa [h.st])]
  simp only [out, hframe, errOut, busy, frameValid, rxTake, expired, h.st, h.cnt, h.faultBusy]

end

/-- Runs that may be relied on keep two blocks alike, or both fault on the same ARM. -/
theorem reliedWords_alike (ws : List (BitVec 28)) (s₁ s₂ : State) (h : Alike s₁.fcv s₂.fcv) (hI : FcvInv s₁.fcv)
    (hs : faulted s₁ = false) :
    (∃ t₁ t₂ : State, reliedWords ws s₁ = .next t₁ ∧ reliedWords ws s₂ = .next t₂ ∧
      Alike t₁.fcv t₂.fcv ∧ FcvInv t₁.fcv) ∨
    ((∃ w ∈ ws, (unpackIn w).arm = true) ∧ reliedWords ws s₁ = .fault .hostDutyBroken ∧
      reliedWords ws s₂ = .fault .hostDutyBroken) := by
  induction ws generalizing s₁ s₂ with
  | nil => exact .inl ⟨s₁, s₂, rfl, rfl, h, hI⟩
  | cons w ws ih =>
    have hs₂ : faulted s₂ = false := h.faultBusy.trans hs
    have hf₁ : s₁.fcv.st = .await → s₁.fcv.fill ≤ 8 := hI.1
    have hf₂ : s₂.fcv.st = .await → s₂.fcv.fill ≤ 8 := by rwa [h.st, h.fill]
    have hduty : dutyKept (unpackIn w) s₂.fcv = dutyKept (unpackIn w) s₁.fcv := by rw [dutyKept, dutyKept, h.st]
    cases hd : dutyKept (unpackIn w) s₁.fcv with
    | false =>
      refine .inr ⟨⟨w, List.mem_cons_self, arm_of_duty_broken hd⟩, ?_, ?_⟩
      · exact reliedWords_cons_of_duty_broken hf₁ hs hd
      · exact reliedWords_cons_of_duty_broken hf₂ hs₂ (hduty.trans hd)
    | true =>
      rw [reliedWords_cons_of_dutyKept hf₁ hs hd, reliedWords_cons_of_dutyKept hf₂ hs₂ (hduty.trans hd)]
      obtain hgood | ⟨⟨v, hv, harm⟩, hfault⟩ := ih (clocked (unpackIn w) s₁) (clocked (unpackIn w) s₂)
        (by rw [clocked_fcv, clocked_fcv]; exact h.step hf₁ _) (by rw [clocked_fcv]; exact fcvInv_stepFcv _ hI)
        (faulted_clocked_of_dutyKept hs hd)
      · exact .inl hgood
      · exact .inr ⟨⟨v, List.mem_cons_of_mem w hv, harm⟩, hfault⟩

/-- The ARM that begins a collection keeps the duty. -/
theorem reliedWords_armed (d : BitVec 16) {s : State} (hst : s.fcv.st ≠ .await) (hs : faulted s = false) :
    ∃ u, u.fcv = armAccept d s.fcv ∧
      ∀ ws, reliedWords (assembleWord false (some d) none false :: ws) s = reliedWords ws u := by
  obtain ⟨u, hu, hfcv⟩ := exec_armWord_accepted d hst
  have hunfaulted : faulted u = false := (faulted_of_armAccept hfcv).trans hs
  exact ⟨u, hfcv, fun ws => by simp only [reliedWords, hu, hunfaulted]; rfl⟩

/-- Settles O48: after their ARM the two blocks differ in the buffer alone, of which no byte is stored yet. -/
theorem collectionsAreIndependent : Obligations.CollectionsAreIndependent := by
  intro d ws s₁ s₂ hst₁ hst₂ hfb₁ hfb₂
  obtain ⟨u₁, hu₁, hrun₁⟩ := reliedWords_armed d hst₁ hfb₁
  obtain ⟨u₂, hu₂, hrun₂⟩ := reliedWords_armed d hst₂ hfb₂
  have halike : Alike u₁.fcv u₂.fcv := by rw [hu₁, hu₂]; exact alike_armAccept d (hfb₂.trans hfb₁.symm)
  have hI : FcvInv u₁.fcv := by rw [hu₁]; exact fcvInv_armAccept d _
  have hunfaulted : faulted u₁ = false := (faulted_of_armAccept hu₁).trans hfb₁
  rw [hrun₁, hrun₂]
  obtain ⟨t₁, t₂, ht₁, ht₂, h, -, hdone, -⟩ | hfault := reliedWords_alike ws u₁ u₂ halike hI hunfaulted
  · exact .inl ⟨t₁, t₂, ht₁, ht₂, h.out_eq fun hst => (hdone hst).1⟩
  · exact .inr hfault

end Sys2Proof.Machine
end

section
/-! The host's calls that only write: a single byte, a frame, and the operations that start no collection (spec/43_sensor_session.md
R161, R162, R164 to R166, spec/60_exceptions.md R183). -/

namespace Sys2Proof.Machine

open Sys2Proof

/-! ## A single write, and no write (R161, R166) -/

theorem exec_txb (b : Byte) (w : Write) {s : State} (hw : waiting s = false) (hf : s.fcv.st = .await → s.fcv.fill ≤ 8) :
    exec (.txb b w) s = .next { s with
      fcv := blockAfter w.during s.fcv
      clk := s.clk + w.during.length
      tx := if w.accepted then s.tx ++ [b] else s.tx
      ret := if w.accepted then .ok else .err } := by
  refine (hostCall_of_not_waiting hw _).trans ?_
  rw [writeByte_eq b w s hw hf, andThen_next]

/-- Settles O50. -/
theorem writeByteIsTheTransportsChoice : Obligations.WriteByteIsTheTransportsChoice := by
  intro b cs s hw _ hf
  exact ⟨⟨_, exec_txb b ⟨true, cs⟩ hw hf, rfl, rfl, rfl, rfl, rfl, rfl, rfl⟩,
    ⟨_, exec_txb b ⟨false, cs⟩ hw hf, rfl, rfl, rfl, rfl, rfl, rfl, rfl⟩⟩

/-- Settles O53: with no operation waiting the call is not reentrant. -/
theorem setRangeIsANoOp : Obligations.SetRangeIsANoOp := fun _ hw => hostCall_of_not_waiting hw _

/-! ## A frame (R162, R164, R165) -/

/-- Settles O51: nothing but the returned `Ok` follows the nine writes. -/
theorem sendStopsAtTheFirstRejectedWrite : Obligations.SendStopsAtTheFirstRejectedWrite := by
  intro F during s hw _ hf
  refine ⟨⟨_, (hostCall_of_not_waiting hw _).trans (sendFrame_accepted F during _ s hf), ?_⟩, fun i =>
    ⟨_, (hostCall_of_not_waiting hw _).trans (sendFrame_rejected F i during _ s hf), ?_⟩⟩
  · exact ⟨rfl, rfl, rfl, rfl, rfl, rfl⟩
  · exact ⟨rfl, rfl, rfl, rfl, rfl, rfl, rfl⟩

/-- Settles O52: nothing but the returned `()` follows the nine writes of the built frame. -/
theorem setAutoCalibrationNeverCollects : Obligations.SetAutoCalibrationNeverCollects := by
  intro e during s hw _ hf
  refine ⟨⟨_, (hostCall_of_not_waiting hw _).trans (sendFrame_accepted _ during _ (buildInto _ _ s) hf), ?_⟩, fun i =>
    ⟨_, (hostCall_of_not_waiting hw _).trans (sendFrame_rejected _ i during _ (buildInto _ _ s) hf), ?_⟩⟩
  · exact ⟨rfl, rfl, rfl, rfl, rfl, rfl, rfl⟩
  · exact ⟨rfl, rfl, rfl, rfl, rfl, rfl, rfl⟩

/-- Settles O54: a rejected write returns before what follows the writes, the collection, is reached. -/
theorem readConcentrationWriteFailure : Obligations.ReadConcentrationWriteFailure := by
  intro i during c s hw _ hf
  refine ⟨_, (hostCall_of_not_waiting hw _).trans (sendFrame_rejected _ i during _ (buildInto _ _ s) hf), ?_⟩
  exact ⟨rfl, rfl, rfl, rfl, rfl, rfl, rfl⟩

end Sys2Proof.Machine
end

section
/-! COLLECT and READ_CONCENTRATION: a wait returns what the document's polling loop returns over the same words
(spec/43_sensor_session.md R163, R164, spec/42_response_collector.md R120, R124, R136). -/

namespace Sys2Proof.Machine

open Sys2Proof

/-! ## What a wait returns for a result of the block (R163, R164) -/

theorem ofFn_getD_toList (f : Frame) : Vector.ofFn (fun i : Fin 9 => f.toList.getD i.val 0) = f := by
  apply Vector.ext
  intro i hi
  simp

/-- The frame of DONE, as the session reads it from the port and as the document returns it. -/
theorem returned_frame (op : Waiter) (f : Frame) : returned op (.frame f.toList) = waitResult op f := by
  cases op with
  | collect => exact congrArg Ret.frame (ofFn_getD_toList f)
  | readConcentration => simp [returned, waitResult, ppmOf]

/-- A block that shows a result ends the wait with it. -/
theorem settle_of_result {s : State} {op : Waiter} {r : CollectResult} (hs : s.session = .awaitingResponse op)
    (h : resultOf s.fcv = some r) : settle s = { s with session := sessionAfter r, ret := returned op r } := by
  cases hst : s.fcv.st with
  | idle => simp [resultOf, observe, hst] at h
  | await => simp [resultOf_of_await hst] at h
  | done =>
    rw [resultOf_of_done hst] at h
    cases h
    rw [settle_done hs hst, frameOut_of_done hst, bitsFrame_frameBits, returned_frame]
    rfl
  | failedTimedOut =>
    rw [resultOf_of_failedTimedOut hst] at h
    cases h
    exact settle_failedTimedOut hs hst
  | failedIntegrity =>
    rw [resultOf_of_failedIntegrity hst] at h
    cases h
    exact settle_failedIntegrity hs hst

theorem clocked_of_result {s : State} {op : Waiter} {p : InPorts} {r : CollectResult}
    (hs : s.session = .awaitingResponse op) (h : resultOf (stepFcv p s.fcv) = some r) :
    clocked p s =
      { s with fcv := stepFcv p s.fcv, clk := s.clk + 1, session := sessionAfter r, ret := returned op r } :=
  settle_of_result (s := { s with fcv := stepFcv p s.fcv, clk := s.clk + 1 }) hs h

/-! ## The wait, a word at a time -/

theorem waiting_of_session {s : State} {op : Waiter} (hs : s.session = .awaitingResponse op) : waiting s = true := by
  simp [waiting, hs]

/-- With nothing awaited the script stays where it is. -/
theorem awaitResponse_of_not_waiting (ls : List Line) {s : State} (hw : waiting s = false) :
    awaitResponse ls s = .next { s with lines := ls } := by
  cases ls with
  | nil => rfl
  | cons l ls =>
    cases l with
    | word w => rw [awaitResponse_word, hw]; rfl
    | frame f => rfl
    | call i => rfl

section

variable {s : State} {op : Waiter} {w : BitVec 28}

theorem awaitResponse_word_of_waiting (hs : s.session = .awaitingResponse op) (hfill : s.fcv.fill ≤ 8) (ls : List Line) :
    awaitResponse (.word w :: ls) s = awaitResponse ls (clocked (unpackIn w) s) := by
  rw [awaitResponse_word, if_pos (waiting_of_session hs), clockCycle_of_fill fun _ => hfill, andThen_next]

/-- A word that leaves the block busy leaves the session waiting. -/
theorem awaitResponse_word_of_busy (hs : s.session = .awaitingResponse op) (hfill : s.fcv.fill ≤ 8)
    (hbusy : (stepFcv (unpackIn w) s.fcv).st = .await) (ls : List Line) :
    awaitResponse (.word w :: ls) s =
      awaitResponse ls { s with fcv := stepFcv (unpackIn w) s.fcv, clk := s.clk + 1 } := by
  rw [awaitResponse_word_of_waiting hs hfill, clocked_of_no_wait_ending (.inr hbusy)]

/-- The word that ends the collection returns its result, and the rest of the script is left. -/
theorem awaitResponse_word_of_result {r : CollectResult} (hs : s.session = .awaitingResponse op) (hfill : s.fcv.fill ≤ 8)
    (h : resultOf (stepFcv (unpackIn w) s.fcv) = some r) (ls : List Line) :
    awaitResponse (.word w :: ls) s = .next { s with
      fcv := stepFcv (unpackIn w) s.fcv, clk := s.clk + 1, session := sessionAfter r, ret := returned op r, lines := ls } := by
  rw [awaitResponse_word_of_waiting hs hfill, clocked_of_result hs h]
  exact awaitResponse_of_not_waiting ls (by cases r <;> rfl)

end

/-! ## The document's loop, ended by its last iteration and no sooner -/

/-- The loop over `xs` returns `r` in its last iteration. -/
def ReturnsAtLast (left : Nat) (got : List Byte) (xs : List (Option Byte × Bool)) (r : CollectResult) : Prop :=
  documentCollect left got xs = some r ∧ ∀ k < xs.length, documentCollect left got (xs.take k) = none

theorem returnsAtLast_map_pollView {left : Nat} {got : List Byte} {ws : List (BitVec 28)} {r : CollectResult}
    (h : documentCollect left got (ws.map pollView) = some r)
    (hsooner : ∀ k < ws.length, documentCollect left got ((ws.take k).map pollView) = none) :
    ReturnsAtLast left got (ws.map pollView) r := by
  refine ⟨h, fun k hk => ?_⟩
  rw [← List.map_take]
  exact hsooner k (by simpa using hk)

theorem documentCollect_cons_of_none {left : Nat} {got : List Byte} {x : Option Byte × Bool}
    (h : documentCollect left got [x] = none) (rest : List (Option Byte × Bool)) :
    documentCollect left got (x :: rest) = documentCollect (if x.2 then left - 1 else left) (got ++ x.1.toList) rest := by
  rw [documentCollect_cons, h, Option.none_or]

/-- The first iteration is the last, or returns nothing. -/
theorem returnsAtLast_cons {left : Nat} {got : List Byte} {x : Option Byte × Bool} {rest : List (Option Byte × Bool)}
    {r : CollectResult} (h : ReturnsAtLast left got (x :: rest) r) :
    (documentCollect left got [x] = some r ∧ rest = []) ∨
    (documentCollect left got [x] = none ∧
      ReturnsAtLast (if x.2 then left - 1 else left) (got ++ x.1.toList) rest r) := by
  obtain ⟨hend, hsooner⟩ := h
  cases rest with
  | nil => exact .inl ⟨hend, rfl⟩
  | cons y rest =>
    have hone : documentCollect left got [x] = none := hsooner 1 (by simp)
    refine .inr ⟨hone, (documentCollect_cons_of_none hone _).symm.trans hend, fun k hk => ?_⟩
    exact (documentCollect_cons_of_none hone _).symm.trans (hsooner (k + 1) (Nat.succ_lt_succ hk))

/-! ## The wait against the loop -/

theorem stepFcv_cnt_of_envWord {w : BitVec 28} (henv : envWord w = true) (f : Fcv) :
    (stepFcv (unpackIn w) f).cnt.toNat = if (unpackIn w).tick then f.cnt.toNat - 1 else f.cnt.toNat := by
  obtain ⟨hr, ha⟩ := envWord_iff.1 henv
  rw [stepFcv_cnt_toNat]
  simp [nextCnt, hr, ha]

theorem stepFcv_faultBusy_of_envWord {w : BitVec 28} (henv : envWord w = true) (f : Fcv) :
    (stepFcv (unpackIn w) f).faultBusy = f.faultBusy := by
  obtain ⟨hr, ha⟩ := envWord_iff.1 henv
  rw [stepFcv_faultBusy]
  simp [nextFaultBusy, hr, ha]

/-- A wait over words with whose last the document's loop returns: it returns the loop's result, and besides the block, the clock and
the session it has moved the script alone. -/
theorem awaitResponse_returns {op : Waiter} {got : List Byte} {r : CollectResult} (ws : List (BitVec 28)) (rest : List Line)
    (s : State) (hs : s.session = .awaitingResponse op) (hc : Collects s.fcv got) (henv : ∀ w ∈ ws, envWord w = true)
    (hr : ReturnsAtLast s.fcv.cnt.toNat got (ws.map pollView) r) :
    ∃ g : Fcv, awaitResponse (ws.map .word ++ rest) s = .next { s with
        fcv := g, clk := s.clk + ws.length, session := sessionAfter r, ret := returned op r, lines := rest } ∧
      resultOf g = some r ∧ g.faultBusy = s.fcv.faultBusy := by
  induction ws generalizing s got with
  | nil =>
    obtain ⟨hend, -⟩ := hr
    simp [documentCollect] at hend
  | cons w ws ih =>
    obtain ⟨hw, hws⟩ := List.forall_mem_cons.1 henv
    obtain ⟨hrst, harm⟩ := envWord_iff.1 hw
    obtain ⟨hshown, hgoes⟩ := hc.one_word hrst harm
    have hfb := stepFcv_faultBusy_of_envWord hw s.fcv
    obtain ⟨hone, hlast⟩ | ⟨hone, hrest⟩ := returnsAtLast_cons hr
    · obtain rfl : ws = [] := List.map_eq_nil_iff.1 hlast
      exact ⟨_, awaitResponse_word_of_result hs hc.inside (hshown.trans hone) rest, hshown.trans hone, hfb⟩
    · have hnext := hgoes hone
      obtain ⟨g, hg, hresult, hgfb⟩ :=
        ih { s with fcv := stepFcv (unpackIn w) s.fcv, clk := s.clk + 1 } hs hnext hws (by
          rw [stepFcv_cnt_of_envWord hw]
          exact hrest)
      refine ⟨g, ?_, hresult, hgfb.trans hfb⟩
      rw [List.map_cons, List.cons_append, awaitResponse_word_of_busy hs hc.inside hnext.busy, hg, List.length_cons,
        Nat.add_assoc, Nat.add_comm 1]

/-- The ARM of a collection, accepted, and its wait. -/
theorem collect_returns {op : Waiter} {r : CollectResult} (a : ArmCycle) (ws : List (BitVec 28)) (rest : List Line)
    {s : State} (hw : waiting s = false) (hst : s.fcv.st ≠ .await) (henv : ∀ w ∈ ws, envWord w = true)
    (hr : ReturnsAtLast a.dur.toNat [] (ws.map pollView) r) :
    ∃ (g : Fcv) (n : Nat), andThen (startCollect op a s) (awaitResponse (ws.map .word ++ rest)) = .next { s with
        fcv := g, clk := n, session := sessionAfter r, ret := returned op r, lines := rest } ∧
      resultOf g = some r ∧ g.faultBusy = s.fcv.faultBusy := by
  rw [startCollect_accepted op a s hw hst, andThen_next]
  obtain ⟨g, hg⟩ := awaitResponse_returns ws rest
    { s with fcv := armAccept a.dur s.fcv, clk := s.clk + 1, session := .awaitingResponse op } rfl
    (collects_armAccept a.dur s.fcv) henv hr
  exact ⟨g, _, hg⟩

theorem exec_collect (a : ArmCycle) {s : State} (hw : waiting s = false) :
    exec (.collect a) s = andThen (startCollect .collect a s) (awaitResponse s.lines) := hostCall_of_not_waiting hw _

/-- The state in which READ_CONCENTRATION begins to collect: its frame built and sent, with the cycles of the nine writes. -/
def readingSent (during : Vector (List EnvCycle) 9) (s : State) : State :=
  { s with
    scratch := buildFrame (commandCode s.params .readConcentration) zeroArgs
    session := .sending
    fcv := blockAfter (cyclesOf during 9) s.fcv
    clk := s.clk + (cyclesOf during 9).length
    tx := s.tx ++ (buildFrame (commandCode s.params .readConcentration) zeroArgs).toList }

/-- READ_CONCENTRATION with every write accepted goes on as a collection of 1000 ticks (R164). -/
theorem exec_readConcentration_sent (during : Vector (List EnvCycle) 9) (c : EnvCycle) {s : State} (hw : waiting s = false)
    (hf : s.fcv.st = .await → s.fcv.fill ≤ 8) :
    exec (.readConcentration ⟨⟨none, during⟩, c⟩) s =
      andThen (startCollect .readConcentration ⟨Config.timeoutTicks, c⟩ (readingSent during s)) (awaitResponse s.lines) :=
  (hostCall_of_not_waiting hw _).trans (sendFrame_accepted _ during _ (buildInto _ _ s) hf)

/-- Settles O55: after its ARM, and for READ_CONCENTRATION after its frame, the wait is the document's loop. -/
theorem collectReturnsTheDocumentsResult : Obligations.CollectReturnsTheDocumentsResult := by
  intro ws rest r c s hw hs hst hlines henv
  refine ⟨fun d hend hsooner => ?_, fun during hend hsooner => ?_⟩
  · obtain ⟨g, n, hcall, hresult, hfb⟩ := collect_returns (op := .collect) ⟨d, c⟩ ws rest hw hst henv
      (returnsAtLast_map_pollView hend hsooner)
    rw [exec_collect _ hw, hlines]
    exact ⟨_, hcall, rfl, rfl, rfl, rfl, hresult, hfb.trans hs, rfl, rfl⟩
  · obtain ⟨hblock, -⟩ := writesLeaveAnIdleBlockAlone (cyclesOf during 9) s.fcv hst
    have hunfaulted : (readingSent during s).fcv.faultBusy = false := (congrArg Fcv.faultBusy hblock).trans hs
    have hst' : (readingSent during s).fcv.st ≠ .await := fun h => hst ((congrArg Fcv.st hblock).symm.trans h)
    obtain ⟨g, n, hcall, hresult, hfb⟩ := collect_returns (op := .readConcentration) ⟨Config.timeoutTicks, c⟩ ws rest
      rfl hst' henv (returnsAtLast_map_pollView hend hsooner)
    rw [exec_readConcentration_sent during c hw fun h => absurd h hst, hlines]
    exact ⟨_, hcall, rfl, rfl, rfl, rfl, hresult, hfb.trans hunfaulted, rfl, rfl⟩

/-! ## Silence (R163, R181) -/

/-- Before the deadline a word that offers no byte can only count a tick. -/
theorem stepFcv_of_silent_word {w : BitVec 28} {f : Fcv} (henv : envWord w = true) (hrx : (unpackIn w).rxv = false)
    (hc : f.cnt ≠ 0#16) : stepFcv (unpackIn w) f = afterPoll (unpackIn w) f := by
  obtain ⟨hr, ha⟩ := envWord_iff.1 henv
  have hnone : rxOf (unpackIn w) = none := by simp [rxOf, hrx]
  rw [stepFcv_poll hr (.inl ha), hnone, poll_none hc, afterPoll]

/-- A word of the other agents takes the same from the ticks still to come and from the deadline. -/
theorem tickCount_eq_stepFcv_cnt {w : BitVec 28} {ws : List (BitVec 28)} {f : Fcv} (henv : envWord w = true)
    (h : tickCount (w :: ws) = f.cnt.toNat) : tickCount ws = (stepFcv (unpackIn w) f).cnt.toNat := by
  rw [tickCount_cons] at h
  rw [stepFcv_cnt_of_envWord henv, ← h]
  split <;> rfl

/-- A wait over silent words, the last of them the last tick of the deadline, and one word more: it times out with that word, and no
byte has been stored. -/
theorem awaitResponse_silence {op : Waiter} (ws : List (BitVec 28)) (w : BitVec 28) (rest : List Line) (s : State)
    (hs : s.session = .awaitingResponse op) (hst : s.fcv.st = .await) (hfill : s.fcv.fill ≤ 8)
    (hsilent : ∀ v ∈ ws, envWord v = true ∧ (unpackIn v).rxv = false) (hticks : tickCount ws = s.fcv.cnt.toNat)
    (hsooner : ∀ k < ws.length, tickCount (ws.take k) < s.fcv.cnt.toNat) (henv : envWord w = true) :
    ∃ t, awaitResponse (ws.map .word ++ .word w :: rest) s = .next t ∧
      t.ret = .error .timedOut ∧ t.fcv.st = .failedTimedOut ∧ t.lines = rest ∧ t.fcv.buf = s.fcv.buf := by
  induction ws generalizing s with
  | nil =>
    obtain ⟨hr, ha⟩ := envWord_iff.1 henv
    have hc : s.fcv.cnt = 0#16 := BitVec.eq_of_toNat_eq hticks.symm
    have hstep : stepFcv (unpackIn w) s.fcv = raiseError .timedOut s.fcv := by
      rw [stepFcv_expired hr hst hc, ha]
      rfl
    have hresult : resultOf (stepFcv (unpackIn w) s.fcv) = some .timedOut := by
      rw [hstep]
      exact resultOf_of_failedTimedOut rfl
    exact ⟨_, awaitResponse_word_of_result hs hfill hresult rest, rfl, by rw [hstep]; rfl, rfl, by rw [hstep]; rfl⟩
  | cons v ws ih =>
    obtain ⟨⟨hv, hrx⟩, hsilent⟩ := List.forall_mem_cons.1 hsilent
    have hpos : 0 < s.fcv.cnt.toNat := hsooner 0 (by simp)
    have hc : s.fcv.cnt ≠ 0#16 := fun h => by simp [h] at hpos
    have hstep := stepFcv_of_silent_word hv hrx hc
    have hbusy : (stepFcv (unpackIn v) s.fcv).st = .await := by rw [hstep, afterPoll_st, hst]
    rw [List.map_cons, List.cons_append, awaitResponse_word_of_busy hs hfill hbusy]
    obtain ⟨t, ht, hret, hfailed, hlines, hbuf⟩ :=
      ih { s with fcv := stepFcv (unpackIn v) s.fcv, clk := s.clk + 1 } hs hbusy
        (by simpa [hstep] using hfill) hsilent
        (tickCount_eq_stepFcv_cnt hv hticks) fun k hk => tickCount_lt_stepFcv hv (hsooner (k + 1) (Nat.succ_lt_succ hk))
    exact ⟨t, ht, hret, hfailed, hlines, hbuf.trans (by simp [hstep])⟩

/-- Settles O56: an accepted ARM leaves `d` ticks to count, and the buffer as it was. -/
theorem silenceTimesOutAfterTheLastTick : Obligations.SilenceTimesOutAfterTheLastTick := by
  intro d ws w rest c s hw _ hst hsilent hticks hsooner henv hlines
  obtain ⟨t, ht, hend⟩ := awaitResponse_silence ws w rest
    { s with fcv := armAccept d s.fcv, clk := s.clk + 1, session := .awaitingResponse .collect } rfl rfl (by simp)
    hsilent hticks hsooner henv
  refine ⟨t, ?_, hend⟩
  rw [exec_collect _ hw, startCollect_accepted .collect ⟨d, c⟩ s hw hst, andThen_next, hlines]
  rwa [hlines] at ht

/-! ## A wait that goes on, and COLLECT in AWAIT (R124, R136(d)) -/

/-- In AWAIT the ARM of COLLECT is refused, and what the session then does leaves the block to the ARM word. -/
theorem startCollect_of_await (op : Waiter) (a : ArmCycle) {s : State} (hfill : s.fcv.fill ≤ 8) :
    startCollect op a s = .next
      (settle { clocked (channels (some a.dur) a.env.rx a.env.tick) s with session := .awaitingResponse op }) := by
  rw [startCollect, clockCycle_of_fill fun _ => hfill, andThen_next]

/-- Settles O57: an empty script ends no wait; a word that ends the collection is the cycle in which the session looks at the block; and
a refused ARM sets the flag. -/
theorem waitGoesOnUntilTheBlockIsDone : Obligations.WaitGoesOnUntilTheBlockIsDone := by
  refine ⟨fun d c s hw _ hst hlines => ?noWord, fun op w r s t _ hs _ h hresult => ?laterWord,
    fun d c s hw hst hfill hlines => ?refused⟩
  case noWord =>
    have hcall : exec (.collect ⟨d, c⟩) s =
        .next { s with fcv := armAccept d s.fcv, clk := s.clk + 1, session := .awaitingResponse .collect, lines := [] } := by
      rw [exec_collect _ hw, startCollect_accepted .collect ⟨d, c⟩ s hw hst, andThen_next, hlines]
      rfl
    exact ⟨_, hcall, rfl, rfl, rfl⟩
  case laterWord =>
    rw [exec_decodeIn] at h
    obtain ⟨-, rfl⟩ := clockCycle_next h
    rw [clocked_fcv] at hresult
    rw [clocked_of_result hs hresult]
    exact ⟨rfl, rfl⟩
  case refused =>
    have hblock : (clocked (channels (some d) c.rx c.tick) s).fcv = armRefuse (stepFcv (channels none c.rx c.tick) s.fcv) := by
      rw [clocked_fcv, stepFcv_armRefused d c.rx c.tick hst]
    rw [exec_collect _ hw, startCollect_of_await .collect ⟨d, c⟩ hfill, andThen_next, hlines]
    refine ⟨_, _, clockCycle_of_fill (fun _ => hfill) _, rfl, settle_fcv _, ?_⟩
    rw [faulted, settle_fcv, hblock, armRefuse_faultBusy]

end Sys2Proof.Machine
end

section
/-! `fault_busy` is only watched: what the machine does is the same with the flag set and with the flag clear
(spec/60_exceptions.md R200). -/

namespace Sys2Proof.Machine

open Sys2Proof

/-! ## What every operation made of writes has -/

/-- An update of the host's side: it neither reads nor writes the block. -/
def HostOnly (g : State → State) : Prop := ∀ f s, g { s with fcv := f } = { g s with fcv := f }

theorem HostOnly.fcv_eq {g : State → State} (h : HostOnly g) (s : State) : (g s).fcv = s.fcv := by
  simpa using congrArg State.fcv (h s.fcv s)

/-- A property of operations that the host's updates and the other agents' cycles have, and that going on keeps. -/
structure HeldByWrites (P : (State → Host.Outcome State Fault Refusal) → Prop) : Prop where
  host : ∀ {g : State → State}, HostOnly g → P fun s => .next (g s)
  cycle : ∀ rx tick, P (clockCycle (channels none rx tick))
  andThen : ∀ {f k}, P f → P k → P fun s => andThen (f s) k

section

variable {P : (State → Host.Outcome State Fault Refusal) → Prop} {k : State → Host.Outcome State Fault Refusal}

theorem HeldByWrites.envCycles (hP : HeldByWrites P) (cs : List EnvCycle) : P (envCycles cs) := by
  induction cs with
  | nil => exact hP.host (g := id) fun _ _ => rfl
  | cons c cs ih => exact hP.andThen (hP.cycle c.rx c.tick) ih

theorem HeldByWrites.writeByte (hP : HeldByWrites P) (b : Byte) (w : Write) : P (writeByte b w) :=
  hP.andThen (hP.envCycles w.during) (hP.host fun _ _ => by split <;> rfl)

theorem HeldByWrites.writeAll (hP : HeldByWrites P) (hk : P k) (ws : List (Byte × List EnvCycle)) :
    ∀ r, P (writeAll k ws r) := by
  induction ws with
  | nil => intro r; cases r <;> exact hk
  | cons w ws ih =>
    intro r
    match r with
    | none => exact hP.andThen (hP.writeByte _ _) (ih _)
    | some 0 => exact hP.andThen (hP.writeByte _ _) (hP.host (g := writeFailed) fun _ _ => rfl)
    | some (n + 1) => exact hP.andThen (hP.writeByte _ _) (ih _)

/-- The frame goes out from the state that `g` makes: for SEND its own, for an operation the one with its frame built. -/
theorem HeldByWrites.sendFrame (hP : HeldByWrites P) (hk : P k) (f : Frame) (w : Writes) {g : State → State}
    (hg : HostOnly g) : P fun s => sendFrame f w k (g s) :=
  hP.andThen (hP.host (g := fun s => { g s with session := .sending }) fun h s =>
      congrArg (fun t : State => { t with session := .sending }) (hg h s))
    (hP.writeAll hk (f.toList.zip w.during.toList) (w.reject.map Fin.val))

end

/-! ## The block with another flag -/

/-- A block with another `fault_busy`. -/
abbrev withFlag (b : Bool) (f : Fcv) : Fcv := { f with faultBusy := b }

theorem countTick_withFlag (b : Bool) (f : Fcv) : countTick (withFlag b f) = withFlag b (countTick f) := by
  by_cases h : f.cnt = 0#16
  · rw [countTick_of_zero h, countTick_of_zero (f := withFlag b f) h]
  · rw [countTick_of_ne_zero h, countTick_of_ne_zero (f := withFlag b f) h]

theorem validateByte_withFlag (x : Byte) (b : Bool) (f : Fcv) :
    validateByte x (withFlag b f) = withFlag b (validateByte x f) := by
  by_cases h : x = chk (payload f.buf) <;> simp [validateByte, raiseError, h]

theorem takeByte_withFlag (x : Byte) (b : Bool) (f : Fcv) : takeByte x (withFlag b f) = withFlag b (takeByte x f) := by
  by_cases h : f.fill ≤ 7
  · rw [takeByte_append h, takeByte_append (f := withFlag b f) h]
    rfl
  · simp only [takeByte, h, if_false, validateByte_withFlag]

theorem poll_withFlag (rx : Option Byte) (b : Bool) (f : Fcv) : poll rx (withFlag b f) = withFlag b (poll rx f) := by
  by_cases hst : f.st = .await
  · by_cases hc : f.cnt = 0#16
    · rw [poll_expired hst hc, poll_expired (f := withFlag b f) hst hc]
      rfl
    · cases rx with
      | none => rw [poll_none hc, poll_none (f := withFlag b f) hc]
      | some x => rw [poll_some hst hc, poll_some (f := withFlag b f) hst hc, takeByte_withFlag]
  · rw [poll_of_not_await hst, poll_of_not_await (f := withFlag b f) hst]

/-- The tick of the word, and a refused ARM, which sets the flag whatever it was. -/
theorem afterPoll_withFlag (p : InPorts) (b : Bool) (f : Fcv) :
    afterPoll p (withFlag b f) = withFlag (b || p.arm) (afterPoll p f) := by
  cases ha : p.arm <;> cases ht : p.tick <;> simp [afterPoll, armRefuse, countTick_withFlag, ha, ht]

/-- The step of the block reads the flag for the next flag alone. -/
theorem stepFcv_withFlag (p : InPorts) (b : Bool) (f : Fcv) :
    ∃ c, stepFcv p (withFlag b f) = withFlag c (stepFcv p f) := by
  obtain ⟨hr, h⟩ | ⟨hr, ha, hst, h⟩ | ⟨hr, ha, h⟩ := stepFcv_cases p f
  · exact ⟨false, by rw [h, stepFcv_rst hr]; rfl⟩
  · exact ⟨b, by rw [h, stepFcv_armAccept (f := withFlag b f) hr ha hst]; rfl⟩
  · have h' : stepFcv p (withFlag b f) = afterPoll p (poll (rxOf p) (withFlag b f)) := stepFcv_poll hr ha
    exact ⟨b || p.arm, by rw [h, h', poll_withFlag, afterPoll_withFlag]⟩

/-! ## Operations that are blind to the flag -/

/-- Where the operation completes it completes with another flag as well, and the two states it leads to differ in the flag at
most. -/
def FlagBlind (k : State → Host.Outcome State Fault Refusal) : Prop :=
  ∀ b s t, k s = .next t → ∃ c, k (withFaultBusy b s) = .next (withFaultBusy c t)

theorem flagBlind_next {g : State → State} (h : ∀ b s, g (withFaultBusy b s) = withFaultBusy b (g s)) :
    FlagBlind fun s => .next (g s) := by
  intro b s t ht
  cases ht
  exact ⟨b, congrArg Host.Outcome.next (h b s)⟩

theorem flagBlind_hostOnly {g : State → State} (h : HostOnly g) : FlagBlind fun s => .next (g s) :=
  flagBlind_next fun b s => by rw [withFaultBusy, withFaultBusy, h.fcv_eq, h]

theorem flagBlind_andThen {f k : State → Host.Outcome State Fault Refusal} (hf : FlagBlind f) (hk : FlagBlind k) :
    FlagBlind fun s => andThen (f s) k := by
  intro b s t h
  obtain ⟨u, hu, h⟩ := andThen_eq_next.1 h
  obtain ⟨c, hc⟩ := hf b s u hu
  obtain ⟨d, hd⟩ := hk c u t h
  exact ⟨d, andThen_eq_next.2 ⟨_, hc, hd⟩⟩

theorem settle_withFaultBusy (b : Bool) (s : State) : settle (withFaultBusy b s) = withFaultBusy b (settle s) := by
  obtain ⟨⟨buf, fill, cnt, st, fb⟩, tx, scratch, session, ret, lines, clk, params⟩ := s
  cases session <;> cases st <;> rfl

theorem edge_withFaultBusy (b c : Bool) (g : Fcv) (s : State) :
    edge (withFlag c g) (withFaultBusy b s) = withFaultBusy c (edge g s) :=
  settle_withFaultBusy c { s with fcv := g, clk := s.clk + 1 }

theorem flagBlind_clockCycle (p : InPorts) : FlagBlind (clockCycle p) := by
  intro b s t h
  obtain ⟨hm, rfl⟩ := clockCycle_next h
  obtain ⟨c, hc⟩ := stepFcv_withFlag p b s.fcv
  have hclocked : clocked p (withFaultBusy b s) = withFaultBusy c (clocked p s) :=
    (congrArg (edge · (withFaultBusy b s)) hc).trans (edge_withFaultBusy b c _ s)
  exact ⟨c, by rw [clockCycle_of_inside (s := withFaultBusy b s) hm, hclocked]⟩

theorem flagBlind_heldByWrites : HeldByWrites FlagBlind :=
  ⟨flagBlind_hostOnly, fun _ _ => flagBlind_clockCycle _, flagBlind_andThen⟩

theorem flagBlind_awaitResponse (ls : List Line) : FlagBlind (awaitResponse ls) := by
  induction ls with
  | nil => exact flagBlind_next fun _ _ => rfl
  | cons l ls ih =>
    cases l with
    | word w =>
      intro b s t h
      have hsame : waiting (withFaultBusy b s) = waiting s := rfl
      rw [awaitResponse_word] at h ⊢
      rw [hsame]
      cases hw : waiting s with
      | true =>
        rw [hw] at h
        exact flagBlind_andThen (flagBlind_clockCycle _) ih b s t h
      | false =>
        rw [hw] at h
        cases h
        exact ⟨b, rfl⟩
    | frame f => exact flagBlind_next fun _ _ => rfl
    | call i => exact flagBlind_next fun _ _ => rfl

/-- The ARM of a collection and its wait. -/
theorem flagBlind_collect (op : Waiter) (a : ArmCycle) (ls : List Line) :
    FlagBlind fun s => andThen (startCollect op a s) (awaitResponse ls) :=
  flagBlind_andThen
    (flagBlind_andThen (flagBlind_clockCycle _)
      (flagBlind_next fun b s => settle_withFaultBusy b { s with session := .awaitingResponse op }))
    (flagBlind_awaitResponse ls)

theorem flagBlind_hostCall {k : State → Host.Outcome State Fault Refusal} (hk : FlagBlind k) :
    FlagBlind fun s => hostCall s (k s) := by
  intro b s t h
  obtain ⟨hw, h⟩ := hostCall_next h
  obtain ⟨c, hc⟩ := hk b s t h
  exact ⟨c, (hostCall_of_not_waiting (s := withFaultBusy b s) hw _).trans hc⟩

/-- An operation may read of the state what no flag changes. -/
theorem flagBlind_reading {α : Type} {v : State → α} (hv : ∀ b s, v (withFaultBusy b s) = v s)
    {k : α → State → Host.Outcome State Fault Refusal} (hk : ∀ a, FlagBlind (k a)) : FlagBlind fun s => k (v s) s := by
  intro b s t h
  simpa only [hv] using hk (v s) b s t h

/-- A transition of the block by itself, taken under a condition. -/
theorem flagBlind_edge_ite {c : Fcv → Prop} [∀ f, Decidable (c f)] {g : Fcv → Fcv}
    (hc : ∀ b f, c (withFlag b f) ↔ c f) (hg : ∀ b f, g (withFlag b f) = withFlag b (g f)) :
    FlagBlind fun s => if c s.fcv then .next (edge (g s.fcv) s) else .next s := by
  intro b s t h
  have hc' : c (withFaultBusy b s).fcv ↔ c s.fcv := hc b s.fcv
  have hg' : g (withFaultBusy b s).fcv = withFlag b (g s.fcv) := hg b s.fcv
  refine ⟨b, ?_⟩
  by_cases h0 : c s.fcv
  · simp only [h0, if_true] at h
    cases h
    simp only [hc', h0, if_true, hg', edge_withFaultBusy]
  · simp only [h0, if_false] at h
    cases h
    simp only [hc', h0, if_false]

/-- No instruction reads the flag. -/
theorem exec_flagBlind (i : Instr) : FlagBlind (exec i) := by
  have hP := flagBlind_heldByWrites
  cases i with
  | rst => exact flagBlind_clockCycle resetPorts
  | arm d rx tick => exact flagBlind_clockCycle _
  | rxb b tick => exact flagBlind_clockCycle _
  | rxn => exact flagBlind_clockCycle _
  | tick => exact flagBlind_clockCycle _
  | nop => exact flagBlind_clockCycle _
  | timeout =>
    exact flagBlind_edge_ite (c := fun f => f.st = .await ∧ expired f) (g := raiseError .timedOut) (fun _ _ => .rfl)
      fun _ _ => rfl
  | append x =>
    exact flagBlind_edge_ite (c := fun f => polling f ∧ f.fill ≤ 7) (g := appendByte x) (fun _ _ => .rfl) fun _ _ => rfl
  | validate x =>
    exact flagBlind_edge_ite (c := fun f => polling f ∧ f.fill = 8) (g := validateByte x) (fun _ _ => .rfl)
      (validateByte_withFlag x)
  | fReadConcentration => exact hP.host fun _ _ => rfl
  | fCalibrateZeroPoint a => exact hP.host fun _ _ => rfl
  | fCalibrateSpanPoint a => exact hP.host fun _ _ => rfl
  | fSetAutoCalibration e => exact hP.host fun _ _ => rfl
  | fSetDetectionRange a => exact hP.host fun _ _ => rfl
  | chk l => exact hP.host fun _ _ => rfl
  | build c a => exact hP.host fun _ _ => rfl
  | txb b w => exact flagBlind_hostCall (hP.andThen (hP.writeByte b w) (hP.host fun _ _ => rfl))
  | send f w =>
    exact flagBlind_hostCall (hP.sendFrame (hP.host fun _ _ => rfl) f w (g := id) fun _ _ => rfl)
  | collect a => exact flagBlind_hostCall (flagBlind_reading (v := State.lines) (fun _ _ => rfl) (flagBlind_collect _ a))
  | readConcentration x =>
    exact flagBlind_hostCall (flagBlind_reading (v := fun s => (s.params, s.lines)) (fun _ _ => rfl) fun v =>
      hP.sendFrame (flagBlind_collect _ ⟨Config.timeoutTicks, x.arming⟩ v.2)
        (buildFrame (commandCode v.1 .readConcentration) zeroArgs) x.writes
        (g := buildInto (commandCode v.1 .readConcentration) zeroArgs) fun _ _ => rfl)
  | setAutoCalibration e w =>
    exact flagBlind_hostCall (flagBlind_reading (v := State.params) (fun _ _ => rfl) fun v =>
      hP.sendFrame (hP.host (g := fun t => { t with session := .done, ret := .unit }) fun _ _ => rfl)
        (buildFrame (commandCode v .setAutoCalibration) (autoCalArgs e)) w
        (g := buildInto (commandCode v .setAutoCalibration) (autoCalArgs e)) fun _ _ => rfl)
  | setRange => exact flagBlind_hostCall (hP.host fun _ _ => rfl)

theorem step_eq_exec {s : State} {i : Instr} (h : decodeLine s.params (fetchLine s) = .ok i) :
    step s = exec i (dropLine s) := by simp only [step, h]

/-- The line is fetched and decoded without a look at the block. -/
theorem step_flagBlind : FlagBlind step := by
  intro b s t h
  cases hd : decodeLine s.params (fetchLine s) with
  | error e => simp [step, hd] at h
  | ok i =>
    rw [step_eq_exec hd] at h
    rw [step_eq_exec (s := withFaultBusy b s) hd]
    exact exec_flagBlind i b (dropLine s) t h

theorem runWords_flagBlind (ws : List (BitVec 28)) : FlagBlind (runWords ws) := by
  induction ws with
  | nil => exact flagBlind_next fun _ _ => rfl
  | cons w ws ih =>
    intro b s t h
    rw [runWords_cons] at h ⊢
    exact flagBlind_andThen (flagBlind_clockCycle _) ih b s t h

theorem runSteps_flagBlind (n : Nat) : FlagBlind (runSteps n) := by
  induction n with
  | zero => exact flagBlind_next fun _ _ => rfl
  | succ n ih => exact flagBlind_andThen step_flagBlind ih

/-- The flag of `t` put back makes the whole of `t`. -/
theorem FlagBlind.agrees {k : State → Host.Outcome State Fault Refusal} (hk : FlagBlind k) (b : Bool) {s t : State}
    (h : k s = .next t) : ∃ u, k (withFaultBusy b s) = .next u ∧ t = withFaultBusy t.fcv.faultBusy u := by
  obtain ⟨c, hc⟩ := hk b s t h
  exact ⟨_, hc, rfl⟩

/-- Settles O32: an instruction, a run over words and a run of steps are each blind to the flag. -/
theorem faultBusyChangesNothingElse : Obligations.FaultBusyChangesNothingElse :=
  ⟨fun i b _ _ => (exec_flagBlind i).agrees b, fun ws b _ _ => (runWords_flagBlind ws).agrees b,
    fun n b _ _ => (runSteps_flagBlind n).agrees b⟩

end Sys2Proof.Machine
end

section
/-! What faults a run: a word that arms the block in AWAIT, and nothing else (spec/60_exceptions.md R200, spec/00_scope.md
R12(a)). -/

namespace Sys2Proof.Machine

open Sys2Proof

/-- An operation that leaves a run faulted or unfaulted, as it was. -/
def KeepsFlag (k : State → Host.Outcome State Fault Refusal) : Prop := ∀ s t, k s = .next t → faulted t = faulted s

theorem keepsFlag_hostOnly {g : State → State} (h : HostOnly g) : KeepsFlag fun s => .next (g s) := by
  intro s t ht
  cases ht
  rw [faulted, faulted, h.fcv_eq]

theorem keepsFlag_andThen {f k : State → Host.Outcome State Fault Refusal} (hf : KeepsFlag f) (hk : KeepsFlag k) :
    KeepsFlag fun s => andThen (f s) k := by
  intro s t h
  obtain ⟨u, hu, h⟩ := andThen_eq_next.1 h
  exact (hk u t h).trans (hf s u hu)

/-- A cycle with neither RST nor ARM. -/
theorem keepsFlag_clockCycle {p : InPorts} (hr : p.rst = false) (ha : p.arm = false) : KeepsFlag (clockCycle p) := by
  intro s t h
  obtain ⟨-, rfl⟩ := clockCycle_next h
  rw [faulted, faulted, clocked_fcv, stepFcv_faultBusy]
  simp [nextFaultBusy, hr, ha]

theorem keepsFlag_heldByWrites : HeldByWrites KeepsFlag :=
  ⟨keepsFlag_hostOnly, fun _ _ => keepsFlag_clockCycle rfl rfl, keepsFlag_andThen⟩

theorem keepsFlag_word {w : BitVec 28} (henv : envWord w = true) : KeepsFlag (clockCycle (unpackIn w)) := by
  obtain ⟨hr, ha⟩ := envWord_iff.1 henv
  exact keepsFlag_clockCycle hr ha

theorem runWords_keepsFlag (ws : List (BitVec 28)) (henv : ∀ w ∈ ws, envWord w = true) : KeepsFlag (runWords ws) := by
  induction ws with
  | nil => exact keepsFlag_hostOnly (g := id) fun _ _ => rfl
  | cons w ws ih =>
    obtain ⟨hw, hws⟩ := List.forall_mem_cons.1 henv
    intro s t h
    rw [runWords_cons] at h
    exact keepsFlag_andThen (keepsFlag_word hw) (ih hws) s t h

/-- Settles O33: a word is one clock cycle, which faults the run exactly by breaking the duty; in the writes of the calls the
host drives nothing. -/
theorem onlyABrokenDutyFaultsARun : Obligations.OnlyABrokenDutyFaultsARun := by
  have hP := keepsFlag_heldByWrites
  refine ⟨fun w s t hs h => ?word, fun ws s t henv => runWords_keepsFlag ws henv s t, ?calls⟩
  case word =>
    rw [exec_decodeIn] at h
    obtain ⟨-, rfl⟩ := clockCycle_next h
    rw [faulted_clocked hs, Bool.not_eq_true']
  case calls =>
    rintro i s t (⟨b, w, rfl⟩ | ⟨f, ws, rfl⟩ | ⟨e, ws, rfl⟩ | rfl) h <;> obtain ⟨-, h⟩ := hostCall_next h
    · exact hP.andThen (hP.writeByte b w) (hP.host fun _ _ => rfl) s t h
    · exact hP.sendFrame (hP.host fun _ _ => rfl) f ws (g := id) (fun _ _ => rfl) s t h
    · exact hP.sendFrame (hP.host (g := fun t => { t with session := .done, ret := .unit }) fun _ _ => rfl) _ ws
        (g := buildInto _ _) (fun _ _ => rfl) s t h
    · exact hP.host (g := fun t => { t with session := .done, ret := .unit }) (fun _ _ => rfl) s t h

end Sys2Proof.Machine
end

section
/-! Steps that may be relied on: what `fault_busy` does in the cycles of a step, those of a wait among them
(spec/60_exceptions.md R200, spec/92_eei_decisions.md D14). -/

namespace Sys2Proof.Machine

open Sys2Proof

/-! ## The faults of a step -/

theorem reliedStep_of_faulted {s : State} (h : faulted s = true) : reliedStep s = .fault .hostDutyBroken := by
  simp [reliedStep, h]

theorem reliedStep_of_stepFaults {s : State} (h : stepFaults s = true) : reliedStep s = .fault .hostDutyBroken := by
  simp [reliedStep, h]

theorem reliedStep_eq_step {s : State} (hs : faulted s = false) (h : stepFaults s = false) : reliedStep s = step s := by
  simp [reliedStep, hs, h]

theorem stepFaults_eq {s : State} {i : Instr} (h : decodeLine s.params (fetchLine s) = .ok i) :
    stepFaults s = faultsDuring i (dropLine s) := by simp only [stepFaults, h]

theorem faultsDuring_of_next {i : Instr} {s t : State} (h : exec i (withLines [] s) = .next t) :
    faultsDuring i s = (faulted t || (!waiting s && waitFaults s.lines t)) := by rw [faultsDuring, h]

/-- A step that may be relied on is the machine's, and begins and ends unfaulted. -/
theorem reliedStep_next {s t : State} (h : reliedStep s = .next t) :
    step s = .next t ∧ faulted s = false ∧ faulted t = false := by
  cases hs : faulted s with
  | true => simp [reliedStep_of_faulted hs] at h
  | false =>
    cases hf : stepFaults s with
    | true => simp [reliedStep_of_stepFaults hf] at h
    | false =>
      rw [reliedStep_eq_step hs hf] at h
      refine ⟨h, rfl, ?_⟩
      cases hd : decodeLine s.params (fetchLine s) with
      | error e => simp [step, hd] at h
      | ok i =>
        rw [step_eq_exec hd] at h
        rw [stepFaults_eq hd] at hf
        exact exec_unfaulted i (dropLine s) t h hf

/-! ## The faults of a wait -/

theorem waitFaults_of_not_waiting (ls : List Line) {s : State} (h : waiting s = false) : waitFaults ls s = false := by
  cases ls with
  | nil => rfl
  | cons l ls => cases l <;> simp [waitFaults, h]

theorem waitFaults_word {w : BitVec 28} {s : State} (hw : waiting s = true) (hf : s.fcv.st = .await → s.fcv.fill ≤ 8)
    (ls : List Line) :
    waitFaults (.word w :: ls) s = (faulted (clocked (unpackIn w) s) || waitFaults ls (clocked (unpackIn w) s)) := by
  simp only [waitFaults, hw, clockCycle_of_fill hf, Bool.true_and]

/-- The words of the other agents fault no wait. -/
theorem waitFaults_of_envWords (ws : List (BitVec 28)) (s : State) (hf : s.fcv.st = .await → s.fcv.fill ≤ 8)
    (hs : faulted s = false) (henv : ∀ w ∈ ws, envWord w = true) : waitFaults (ws.map .word) s = false := by
  induction ws generalizing s with
  | nil => rfl
  | cons w ws ih =>
    obtain ⟨hw, hws⟩ := List.forall_mem_cons.1 henv
    cases hwait : waiting s with
    | false => exact waitFaults_of_not_waiting _ hwait
    | true =>
      have hnext : faulted (clocked (unpackIn w) s) = false :=
        (keepsFlag_word hw s _ (clockCycle_of_fill hf _)).trans hs
      have hfill : (clocked (unpackIn w) s).fcv.st = .await → (clocked (unpackIn w) s).fcv.fill ≤ 8 := by
        rw [clocked_fcv]
        exact stepFcv_await_fill _ _ hf
      rw [List.map_cons, waitFaults_word hwait hf, hnext, ih _ hfill hnext hws]
      rfl

/-- An ARM while the document's loop is still polling faults the wait, whatever follows. -/
theorem waitFaults_of_arm {op : Waiter} {got : List Byte} {w : BitVec 28} (ws : List (BitVec 28)) (rest : List Line)
    (s : State) (hs : s.session = .awaitingResponse op) (hc : Collects s.fcv got) (henv : ∀ v ∈ ws, envWord v = true)
    (hnone : documentCollect s.fcv.cnt.toNat got (ws.map pollView) = none) (hr : (unpackIn w).rst = false)
    (ha : (unpackIn w).arm = true) : waitFaults (ws.map .word ++ .word w :: rest) s = true := by
  induction ws generalizing s got with
  | nil =>
    have hset : faulted (clocked (unpackIn w) s) = true := by
      rw [faulted, clocked_fcv, stepFcv_faultBusy]
      simp [nextFaultBusy, hr, ha, hc.busy]
    rw [List.map_nil, List.nil_append, waitFaults_word (waiting_of_session hs) fun _ => hc.inside, hset, Bool.true_or]
  | cons v ws ih =>
    obtain ⟨hv, hvs⟩ := List.forall_mem_cons.1 henv
    obtain ⟨hrst, harm⟩ := envWord_iff.1 hv
    rw [List.map_cons, documentCollect_cons, Option.or_eq_none_iff] at hnone
    obtain ⟨hone, hrest⟩ := hnone
    have hnext := (hc.one_word hrst harm).2 hone
    have hcnt := stepFcv_cnt_of_envWord hv s.fcv
    rw [List.map_cons, List.cons_append, waitFaults_word (waiting_of_session hs) fun _ => hc.inside,
      clocked_of_no_wait_ending (.inr hnext.busy),
      ih { s with fcv := stepFcv (unpackIn v) s.fcv, clk := s.clk + 1 } hs hnext hvs (by rwa [hcnt]), Bool.or_true]

/-! ## A word, and a call that waits -/

theorem exec_word_of_fill {s : State} (hf : s.fcv.st = .await → s.fcv.fill ≤ 8) (w : BitVec 28) :
    exec (decodeIn w) s = .next (clocked (unpackIn w) s) := (exec_decodeIn w s).trans (clockCycle_of_fill hf _)

theorem faultsDuring_word {w : BitVec 28} {s : State} (hs : faulted s = false)
    (hf : s.fcv.st = .await → s.fcv.fill ≤ 8) : faultsDuring (decodeIn w) s = !dutyKept (unpackIn w) s.fcv := by
  have hexec := exec_word_of_fill (s := withLines [] s) hf w
  have hwait : (!waiting s && waitFaults s.lines (clocked (unpackIn w) (withLines [] s))) = false := by
    cases hw : waiting s with
    | true => rfl
    | false =>
      rw [clocked_of_not_waiting (s := withLines [] s) hw]
      exact waitFaults_of_not_waiting s.lines hw
  rw [faultsDuring_of_next hexec, hwait, Bool.or_false, faulted_clocked (s := withLines [] s) hs]

/-- A line that is an IN word faults its step exactly by breaking the duty. -/
theorem stepFaults_word {w : BitVec 28} {ls : List Line} {s : State} (hs : faulted s = false)
    (hf : s.fcv.st = .await → s.fcv.fill ≤ 8) (hl : s.lines = .word w :: ls) :
    stepFaults s = !dutyKept (unpackIn w) s.fcv := by
  have hd : decodeLine s.params (fetchLine s) = .ok (decodeIn w) := by simp [fetchLine, hl, decodeLine]
  rw [stepFaults_eq hd]
  exact faultsDuring_word (s := dropLine s) hs hf

/-- COLLECT `d`, or READ_CONCENTRATION with its writes accepted, whose budget is fixed (R163, R164). -/
def Collecting (d : BitVec 16) (c : EnvCycle) (i : Instr) : Prop :=
  i = .collect ⟨d, c⟩ ∨ d = Config.timeoutTicks ∧ ∃ during, i = .readConcentration ⟨⟨none, during⟩, c⟩

theorem Collecting.callable {d : BitVec 16} {c : EnvCycle} {i : Instr} (h : Collecting d c i) : i.callable = true := by
  obtain rfl | ⟨-, during, rfl⟩ := h <;> rfl

/-- Before its wait the call has begun a collection, and has not faulted the run. -/
theorem Collecting.begins {d : BitVec 16} {c : EnvCycle} {i : Instr} (h : Collecting d c i) {s : State}
    (hw : waiting s = false) (hst : s.fcv.st ≠ .await) :
    ∃ t op, exec i (withLines [] s) = .next t ∧ t.session = .awaitingResponse op ∧ Collects t.fcv [] ∧ t.fcv.cnt = d ∧
      faulted t = faulted s := by
  obtain rfl | ⟨rfl, during, rfl⟩ := h
  · have hcall : exec (.collect ⟨d, c⟩) (withLines [] s) = .next { s with
        fcv := armAccept d s.fcv, clk := s.clk + 1, session := .awaitingResponse .collect, lines := [] } := by
      rw [exec_collect (s := withLines [] s) _ hw, startCollect_accepted .collect ⟨d, c⟩ (withLines [] s) hw hst,
        andThen_next]
      rfl
    exact ⟨_, _, hcall, rfl, collects_armAccept d s.fcv, rfl, rfl⟩
  · obtain ⟨hblock, -⟩ := writesLeaveAnIdleBlockAlone (cyclesOf during 9) s.fcv hst
    have hflag : (blockAfter (cyclesOf during 9) s.fcv).faultBusy = s.fcv.faultBusy := by rw [hblock]
    exact ⟨_, _, exec_readConcentration_accepted during c (s := withLines [] s) hw hst rfl, rfl, collects_armAccept _ _, rfl,
      hflag⟩

/-- The step of a call that waits faults in its first cycles or in its wait. -/
theorem stepFaults_call {i : Instr} {ls : List Line} {s t : State} (hi : i.callable = true) (hw : waiting s = false)
    (hl : s.lines = .call i :: ls) (h : exec i (withLines [] s) = .next t) :
    stepFaults s = (faulted t || waitFaults ls t) := by
  have hd : decodeLine s.params (fetchLine s) = .ok i := by simp [fetchLine, hl, decodeLine, hi]
  have hlines : (dropLine s).lines = ls := by rw [dropLine, hl, List.tail_cons]
  have hwait : waiting (dropLine s) = false := hw
  rw [stepFaults_eq hd, faultsDuring_of_next (s := dropLine s) h, hlines, hwait, Bool.not_false, Bool.true_and]

/-! ## Runs over words -/

theorem reliedWords_next (ws : List (BitVec 28)) (s t : State) (hs : faulted s = false)
    (h : reliedWords ws s = .next t) : runWords ws s = .next t ∧ faulted t = false := by
  induction ws generalizing s with
  | nil =>
    cases h
    exact ⟨rfl, hs⟩
  | cons w ws ih =>
    cases hexec : exec (decodeIn w) s with
    | next u =>
      cases hu : faulted u with
      | true => simp [reliedWords, hexec, hu] at h
      | false =>
        simp only [reliedWords, hexec, hu] at h
        simpa only [runWords, hexec] using ih u hu h
    | fault e => simp [reliedWords, hexec] at h
    | refused r => simp [reliedWords, hexec] at h

/-- Settles O34: the faults of a step are those of its cycles; in a wait the document's loop is still polling where the ARM comes,
and the words of the other agents leave the flag. -/
theorem reliedStepFaultsOnABrokenDuty : Obligations.ReliedStepFaultsOnABrokenDuty := by
  refine ⟨fun s => reliedStep_of_faulted, fun w ls s hs hf hl => ?word, fun s t => reliedStep_next,
    fun d c i ws s hi hs hw hst henv => ?call, fun ws s t hs => reliedWords_next ws s t hs⟩
  case word =>
    have hfaults := stepFaults_word hs hf hl
    refine ⟨fun hd => ?_, fun hd => reliedStep_of_stepFaults (by rw [hfaults, hd]; rfl)⟩
    have hrelied : reliedStep s = step s := reliedStep_eq_step hs (by rw [hfaults, hd]; rfl)
    have hstep : step s = .next (clocked (unpackIn w) (withLines ls s)) :=
      (step_of_decodes hl rfl).trans (exec_word_of_fill (s := withLines ls s) hf w)
    exact ⟨_, hstep, hrelied.trans hstep, faulted_clocked_of_dutyKept (s := withLines ls s) hs hd⟩
  case call =>
    have hi : Collecting d c i := hi
    obtain ⟨t, op, hcall, hsession, hcollects, hcnt, hflag⟩ := hi.begins hw hst
    refine ⟨fun w rest hnone hr ha hl => reliedStep_of_stepFaults ?_, fun hl => reliedStep_eq_step hs ?_⟩
    · rw [stepFaults_call hi.callable hw hl hcall,
        waitFaults_of_arm ws rest t hsession hcollects henv (by rwa [hcnt]) hr ha, Bool.or_true]
    · have ht : faulted t = false := hflag.trans hs
      rw [stepFaults_call hi.callable hw hl hcall, ht, waitFaults_of_envWords ws t (fun _ => hcollects.inside) ht henv]
      rfl

end Sys2Proof.Machine
end
